-- ==== Sys2Proof/Word.lean ====
section
/-! DEFINITION. The value types of the block (spec/00_scope.md rules R5 and R6). -/

namespace Sys2Proof

/-- `U8` of rule R6: one byte, the addressable unit of every buffer (rule R43). -/
abbrev Byte : Type := BitVec 8

/-- `U32` of rule R6: the `size` field. -/
abbrev U32 : Type := BitVec 32

/-- `I32` of rule R6: the `id` and `type` fields, held as their 32 bits.
The signed value is `sint32` of the bits (rule R8, Sys2Proof/Machine/Bytes.lean). -/
abbrev I32 : Type := BitVec 32

/-- `Bytes` of rule R6: a finite byte sequence, index 0 first. -/
abbrev Bytes : Type := List Byte

end Sys2Proof
end

