-- ==== Sys2Proof/Config.lean ====
section
/-! DEFINITION. The constants of rule R4 and the values the spec leaves open (free values: constants with no body). -/

namespace Sys2Proof.Config

/-- `MIN_FRAME_BYTES` of rule R4. -/
abbrev minFrameBytes : Nat := 10
/-- `MAX_BODY` of rule R4. -/
abbrev maxBody : Nat := 4096
/-- `MAX_FRAME_BYTES` of rule R4. -/
abbrev maxFrameBytes : Nat := 4106
/-- `HDR_BYTES` of rule R4: the offset of the body in a frame. -/
abbrev hdrBytes : Nat := 12
/-- `PAD_BYTES` of rule R4. -/
abbrev padBytes : Nat := 2
/-- `FRAME_OVERHEAD` of rule R4: a frame is this many bytes plus its body. -/
abbrev frameOverhead : Nat := 14
/-- `SIZE_BIAS` of rule R4: the size field less the body length. -/
abbrev sizeBias : Nat := 10
/-- `SIZE_BYTES` of rule R4: the width of the size field on the wire. -/
abbrev sizeBytes : Nat := 4
/-- `FRM_BUF_CAP` of rule R4: FRM_BUF has the indices 0 to 4105. -/
abbrev frmBufCap : Nat := 4106
/-- `MAX_RT_BODY` of rule R4: the largest body that DECODE takes back. -/
abbrev maxRtBody : Nat := 4092

/-- FREE VALUE (assumption 10; 93_implementation_defined.md U11: "any value"): what a byte of FRM_BUF that nothing has
written since the reset number `epoch` holds at index `a` (rules R28, R34, R170). -/
opaque unwrittenByte (epoch a : Nat) : Byte

/-- FREE VALUE (assumption 9; U15, N13): whether a console line with an id and a type name and no body token is a request
with an empty body (true) or malformed (false). -/
opaque acceptsBodylessLine : Bool

end Sys2Proof.Config
end

