-- ==== Sys2Proof/Syntax.lean ====
section
/-! DEFINITION. The operands and the instructions: one constructor of `Instr` per row of spec/opcode_table.json; and
`Transfer`, the bit patterns as they cross the interface, before decoding. -/

namespace Sys2Proof

/-- PacketType of rule R66: a closed enumeration of four variants. -/
inductive Variant where
  | authRequest | authResponse | execCommand | responseValue
  deriving DecidableEq, Repr

/-- The packet record of rule R10. -/
structure Packet where
  size : U32
  id : I32
  type : I32
  body : Bytes
  deriving DecidableEq, Repr

/-- The fields of one frame of rule R61, pad included. -/
structure Frame where
  size : U32
  id : I32
  type : I32
  body : Bytes
  pad0 : Byte
  pad1 : Byte
  deriving DecidableEq, Repr

/-- The two ways received bytes are handed to the block (00_scope.md glossary; the two columns of rule R69):
to DECODE directly, or to FRM. -/
inductive RxPath where
  | direct | framed
  deriving DecidableEq, Repr

/-- The side of the block on which a type code stands (rule R64). -/
inductive Side where
  | transmit | receive
  deriving DecidableEq, Repr

/-- The rows of spec/opcode_table.json, in the table's order.
OP rows are the operations of rule R70. The rows of the other spaces are no operations of the command interface; what each
does as an input is in its comment and in assumptions 5 to 8. -/
inductive Instr where
  -- OP: rules R70 to R72
  | construct (v : Variant) (id : I32) (body : Bytes)
  | encode (p : Packet)
  | decode (buf : Bytes)
  | frmPush (chunk : Bytes)
  | frmEos
  | reservedOp4
  | reservedOp5
  | reservedOp6
  | reservedOp7
  -- FRAME: rule R61; one whole frame handed to the block on one of its two receive paths
  | frame (path : RxPath) (f : Frame)
  -- TYPE: rules R66 and R71; the construction of a packet of that variant
  | authRequest (id : I32) (body : Bytes)
  | authResponse (id : I32) (body : Bytes)
  | execCommand (id : I32) (body : Bytes)
  | responseValue (id : I32) (body : Bytes)
  -- TYPE: rules R64 and R69; a type code that no variant has, encoded or decoded
  | typeOther (side : Side) (type : I32) (id : I32) (body : Bytes)
  -- RESULT: rule R141; the host reads the result code and tells it against the row's
  | resultOk
  | resultBodyTooLarge
  | resultInvalidLength
  | resultShortFrame
  | resultBadOp
  | resultNotWF
  | resultClosed
  | resultFaulted
  -- STATE: rules R24 and R30; the host reads FRM_ST and tells it against the row's
  | frmStHdr
  | frmStBody
  | frmStClosed
  | frmStFault
  -- CONSOLE: rules R80 and R81; one console line
  | serverDataAuth (id : I32) (body : Bytes)
  | serverDataAuthResponse (id : I32) (body : Bytes)
  | serverDataExecCommand (id : I32) (body : Bytes)
  | serverDataResponseValue (id : I32) (body : Bytes)
  deriving DecidableEq, Repr

/-- The "format" column of spec/opcode_table.json: the code space a row's bits belong to. -/
inductive Format where
  | op | frame | type | result | state | console
  deriving DecidableEq, Repr

/-- What crosses the interface, as bits (assumption 13). The spec gives every operand its width and no serialisation of a
whole command (rule R73), so an `op` transfer is the operation code with every operand line of rule R70 beside it; lines an
operation does not use are ignored. -/
inductive Transfer where
  /-- The command interface of rules R70 to R73. `bytes` is the body, buffer or chunk. -/
  | op (code : BitVec 3) (vsel : BitVec 2) (size : U32) (id : I32) (type : I32) (bytes : Bytes)
  /-- The bytes one transport read returned, handed to DECODE or to FRM. -/
  | wire (path : RxPath) (bytes : Bytes)
  /-- A 32-bit type field with the packet it stands in; `vsel` tells AuthResponse from ExecCommand (rules R67, R71). -/
  | type (side : Side) (code : BitVec 32) (vsel : BitVec 2) (id : I32) (body : Bytes)
  /-- A 3-bit result code (rule R141). -/
  | result (code : BitVec 3)
  /-- A 2-bit framer state (rule R24). -/
  | state (code : BitVec 2)
  /-- One console line as text bytes (rule R80). -/
  | console (line : Bytes)
  deriving DecidableEq, Repr

/-- Why a transfer is no instruction: the two glue errors of the console parser that rule R146 names. -/
inductive Reject where
  /-- "non-integer id, missing tokens" (rules R82, R146). -/
  | malformedInput
  /-- "unknown type name from console" (rules R81, R146). -/
  | unrecognizedPacketType
  deriving DecidableEq, Repr

end Sys2Proof
end

