-- ==== Sys2Proof/Machine/Bytes.lean ====
section
/-! DEFINITION. Byte sequences, byte order and signed values (spec/00_scope.md rules R5, R7, R8), and the two code tables
of the transmit side (spec/30_encoding.md rules R66, R71). -/

namespace Sys2Proof.Machine

/-- `b[i..j]` of rule R5: the bytes `i` to `j - 1`. -/
def slice (b : Bytes) (i j : Nat) : Bytes := (b.drop i).take (j - i)

/-- `le32(v)` of rule R7: least significant byte first. -/
def le32 (v : U32) : Bytes :=
  [v.extractLsb' 0 8, v.extractLsb' 8 8, v.extractLsb' 16 8, v.extractLsb' 24 8]

/-- The byte at index `k`, 0 beyond the end (the rules never read there). -/
def byteAt (b : Bytes) (k : Nat) : Byte := b.getD k 0

/-- `u32le(b)` of rule R7. -/
def u32le (b : Bytes) : U32 :=
  BitVec.ofNat 32 ((byteAt b 0).toNat + 256 * (byteAt b 1).toNat + 65536 * (byteAt b 2).toNat
    + 16777216 * (byteAt b 3).toNat)

/-- `bits32(s)` of rule R8. PRESUMED (G1, assumption 12): two's complement. -/
def bits32 (s : Int) : I32 :=
  BitVec.ofNat 32 (if 0 ≤ s then s else s + 4294967296).toNat

/-- `sint32(u)` of rule R8. PRESUMED (G1, assumption 12): two's complement. -/
def sint32 (u : I32) : Int :=
  if u.toNat < 2147483648 then (u.toNat : Int) else (u.toNat : Int) - 4294967296

/-- `le32s` of rule R8 on the bits of a signed value. -/
def le32s (s : I32) : Bytes := le32 s

/-- `i32le` of rule R8: the same 32 bits, read as signed through `sint32` (rule R116: nothing is extended). -/
def i32le (b : Bytes) : I32 := u32le b

/-- `code(v)`: the wire code of a variant (rule R66), as its signed value. -/
def wireCode : Variant → Int
  | .authRequest => 3
  | .authResponse => 2
  | .execCommand => 2
  | .responseValue => 0

/-- The `type` field CONSTRUCT stores for a variant (rules R64, R66). -/
def typeField (v : Variant) : I32 := bits32 (wireCode v)

/-- The variant that the 2-bit selector names (rule R71). -/
def variantOfVsel (vsel : BitVec 2) : Variant :=
  if vsel = 0 then .authRequest
  else if vsel = 1 then .authResponse
  else if vsel = 2 then .execCommand
  else .responseValue

/-- The 2-bit selector of a variant (rule R71). -/
def vselOf : Variant → BitVec 2
  | .authRequest => 0
  | .authResponse => 1
  | .execCommand => 2
  | .responseValue => 3

/-- The byte string of a frame, by the table of rule R61. -/
def frameBytes (f : Frame) : Bytes :=
  le32 f.size ++ le32s f.id ++ le32s f.type ++ f.body ++ [f.pad0, f.pad1]

/-- The fields of a byte string of 14 bytes or more, by the table of rule R61. -/
def frameOfBytes (b : Bytes) : Frame :=
  { size := u32le (slice b 0 4)
    id := i32le (slice b 4 8)
    type := i32le (slice b 8 12)
    body := slice b Config.hdrBytes (b.length - Config.padBytes)
    pad0 := byteAt b (b.length - 2)
    pad1 := byteAt b (b.length - 1) }

end Sys2Proof.Machine
end

