-- ==== Sys2Proof/Machine/Text.lean ====
section
/-! DEFINITION. The text of a console line (spec/30_encoding.md rules R80 to R83): tokens, the decimal id, the four type
names. What the rules leave open here is assumption 8. -/

namespace Sys2Proof.Machine

/-- The ASCII bytes of a character list (G2: one printable ASCII character per byte). -/
def ascii (cs : List Char) : Bytes := cs.map fun c => BitVec.ofNat 8 c.toNat

/-- The bytes that separate tokens. DESIGN CHOICE (assumption 8): the ASCII whitespace characters. -/
def isBlank (b : Byte) : Bool := b == 0x20 || (0x09 ≤ b.toNat && b.toNat ≤ 0x0D)

/-- The tokens of a line, `cur` being the token read so far: runs of blanks separate, and none is kept (rule R83). -/
def tokensFrom : Bytes → Bytes → List Bytes
  | [], cur => if cur.isEmpty then [] else [cur]
  | b :: bs, cur =>
    if isBlank b then
      if cur.isEmpty then tokensFrom bs [] else cur :: tokensFrom bs []
    else tokensFrom bs (cur ++ [b])

/-- The whitespace-separated tokens of a line (rule R80). -/
def tokens (line : Bytes) : List Bytes := tokensFrom line []

/-- Tokens joined by single spaces (rule R83). -/
def joinTokens : List Bytes → Bytes
  | [] => []
  | [t] => t
  | t :: ts => t ++ [0x20] ++ joinTokens ts

/-- The value of a decimal digit. -/
def digit? (b : Byte) : Option Nat :=
  if 0x30 ≤ b.toNat && b.toNat ≤ 0x39 then some (b.toNat - 0x30) else none

/-- Decimal digits, most significant first, read onto `acc`. -/
def digits? : Bytes → Nat → Option Nat
  | [], acc => some acc
  | b :: bs, acc =>
    match digit? b with
    | some d => digits? bs (10 * acc + d)
    | none => none

/-- A natural number in decimal: at least one digit. -/
def decimal? (b : Bytes) : Option Nat := if b.isEmpty then none else digits? b 0

/-- The id token: decimal digits with an optional leading `-`, in the range of `I32` (rule R82, G3). -/
def id? (tok : Bytes) : Option I32 :=
  match tok with
  | [] => none
  | b :: bs =>
    if b = 0x2D then
      match decimal? bs with
      | some n => if n ≤ 2147483648 then some (bits32 (-(n : Int))) else none
      | none => none
    else
      match decimal? tok with
      | some n => if n < 2147483648 then some (bits32 n) else none
      | none => none

/-- The decimal digits of a number below 10 to the power `fuel`, with no leading zero. -/
def decimalDigits : Nat → Nat → Bytes
  | 0, _ => []
  | fuel + 1, n =>
    if n < 10 then [BitVec.ofNat 8 (0x30 + n)]
    else decimalDigits fuel (n / 10) ++ [BitVec.ofNat 8 (0x30 + n % 10)]

/-- The id token of an id: its signed value in decimal (rule R82, G3). -/
def idText (id : I32) : Bytes :=
  if sint32 id < 0 then 0x2D :: decimalDigits 10 (sint32 id).natAbs
  else decimalDigits 10 (sint32 id).natAbs

/-- The console name of a variant (rule R81, D24). -/
def consoleName : Variant → Bytes
  | .authRequest => ascii ['S', 'E', 'R', 'V', 'E', 'R', '_', 'D', 'A', 'T', 'A', '_', 'A', 'U', 'T', 'H']
  | .authResponse =>
    ascii ['S', 'E', 'R', 'V', 'E', 'R', '_', 'D', 'A', 'T', 'A', '_', 'A', 'U', 'T', 'H', '_',
      'R', 'E', 'S', 'P', 'O', 'N', 'S', 'E']
  | .execCommand =>
    ascii ['S', 'E', 'R', 'V', 'E', 'R', '_', 'D', 'A', 'T', 'A', '_', 'E', 'X', 'E', 'C', '_',
      'C', 'O', 'M', 'M', 'A', 'N', 'D']
  | .responseValue =>
    ascii ['S', 'E', 'R', 'V', 'E', 'R', '_', 'D', 'A', 'T', 'A', '_', 'R', 'E', 'S', 'P', 'O', 'N', 'S', 'E', '_',
      'V', 'A', 'L', 'U', 'E']

/-- The variant a type name selects, by exact match (rule R81). -/
def variantOfName (tok : Bytes) : Option Variant :=
  if tok = consoleName .authRequest then some .authRequest
  else if tok = consoleName .authResponse then some .authResponse
  else if tok = consoleName .execCommand then some .execCommand
  else if tok = consoleName .responseValue then some .responseValue
  else none

/-- The text of one request (rule R80). -/
def consoleLine (v : Variant) (id : I32) (body : Bytes) : Bytes :=
  joinTokens [idText id, consoleName v, body]

end Sys2Proof.Machine
end

