-- ==== Sys2Proof/WellFormed.lean ====
section
/-! DEFINITION. Which terms of `Instr` stand for something that can cross the interface. -/

namespace Sys2Proof

/-- A console body has one text: at least one token, single spaces between tokens, none around them (rules R80, R83). -/
def consoleBodyWf (body : Bytes) : Bool :=
  !body.isEmpty && Machine.joinTokens (Machine.tokens body) == body

/-- The type codes of rule R66, which TYPE_OTHER leaves out. -/
def isVariantCode (t : I32) : Bool := t == 0 || t == 2 || t == 3

/-- Well-formed instructions: a pushed chunk has a byte (rule R122), TYPE_OTHER is none of the variants' codes (rule R64),
a console line has a body in its one text (rule R83). A packet operand of ENCODE may be any record: rule R103 says what
becomes of one with an over-long body. -/
def Instr.wf : Instr → Bool
  | .construct _ _ _ => true
  | .encode _ => true
  | .decode _ => true
  | .frmPush chunk => !chunk.isEmpty
  | .frmEos => true
  | .reservedOp4 => true
  | .reservedOp5 => true
  | .reservedOp6 => true
  | .reservedOp7 => true
  | .frame _ _ => true
  | .authRequest _ _ => true
  | .authResponse _ _ => true
  | .execCommand _ _ => true
  | .responseValue _ _ => true
  | .typeOther _ t _ _ => !isVariantCode t
  | .resultOk => true
  | .resultBodyTooLarge => true
  | .resultInvalidLength => true
  | .resultShortFrame => true
  | .resultBadOp => true
  | .resultNotWF => true
  | .resultClosed => true
  | .resultFaulted => true
  | .frmStHdr => true
  | .frmStBody => true
  | .frmStClosed => true
  | .frmStFault => true
  | .serverDataAuth _ body => consoleBodyWf body
  | .serverDataAuthResponse _ body => consoleBodyWf body
  | .serverDataExecCommand _ body => consoleBodyWf body
  | .serverDataResponseValue _ body => consoleBodyWf body

/-- The code space of an instruction's row: the "format" column of spec/opcode_table.json. -/
def Instr.format : Instr → Format
  | .construct _ _ _ => .op
  | .encode _ => .op
  | .decode _ => .op
  | .frmPush _ => .op
  | .frmEos => .op
  | .reservedOp4 => .op
  | .reservedOp5 => .op
  | .reservedOp6 => .op
  | .reservedOp7 => .op
  | .frame _ _ => .frame
  | .authRequest _ _ => .type
  | .authResponse _ _ => .type
  | .execCommand _ _ => .type
  | .responseValue _ _ => .type
  | .typeOther _ _ _ _ => .type
  | .resultOk => .result
  | .resultBodyTooLarge => .result
  | .resultInvalidLength => .result
  | .resultShortFrame => .result
  | .resultBadOp => .result
  | .resultNotWF => .result
  | .resultClosed => .result
  | .resultFaulted => .result
  | .frmStHdr => .state
  | .frmStBody => .state
  | .frmStClosed => .state
  | .frmStFault => .state
  | .serverDataAuth _ _ => .console
  | .serverDataAuthResponse _ _ => .console
  | .serverDataExecCommand _ _ => .console
  | .serverDataResponseValue _ _ => .console

/-- The code space a transfer crosses. -/
def Transfer.format : Transfer → Format
  | .op _ _ _ _ _ _ => .op
  | .wire _ _ => .frame
  | .type _ _ _ _ _ => .type
  | .result _ => .result
  | .state _ => .state
  | .console _ => .console

end Sys2Proof
end

