-- ==== Sys2Proof/Decode.lean ====
section
/-! DEFINITION. From what crosses the interface to an instruction, and back. -/

namespace Sys2Proof

open Machine

/-- The command interface (rules R70 to R72): total, since the 3-bit code and the 2-bit selector have no other values.
FRM_EOS is op 3 with an empty chunk. -/
def decodeOp (code : BitVec 3) (vsel : BitVec 2) (size : U32) (id : I32) (type : I32) (bytes : Bytes) : Instr :=
  if code = 0 then .construct (variantOfVsel vsel) id bytes
  else if code = 1 then .encode { size := size, id := id, type := type, body := bytes }
  else if code = 2 then .decode bytes
  else if code = 3 then (if bytes.isEmpty then .frmEos else .frmPush bytes)
  else if code = 4 then .reservedOp4
  else if code = 5 then .reservedOp5
  else if code = 6 then .reservedOp6
  else .reservedOp7

/-- The bytes of one transport read on a receive path. A byte string of 14 bytes or more has the layout of rule R61;
a shorter one is no frame, and is the operand of DECODE or of FRM as it stands (rules R68, R69; an empty read on the framed
path is the end of stream, rule R128). -/
def decodeWire (path : RxPath) (bytes : Bytes) : Instr :=
  if Config.frameOverhead ≤ bytes.length then .frame path (frameOfBytes bytes)
  else
    match path with
    | .direct => .decode bytes
    | .framed => if bytes.isEmpty then .frmEos else .frmPush bytes

/-- A type field on the transmit side (rules R66, R67): code 2 stands for two variants, which only the selector tells
apart. -/
def decodeTypeOut (code : BitVec 32) (vsel : BitVec 2) (id : I32) (body : Bytes) : Instr :=
  if code = 3 then .authRequest id body
  else if code = 2 then (if vsel = 1 then .authResponse id body else .execCommand id body)
  else if code = 0 then .responseValue id body
  else .typeOther .transmit code id body

/-- A type field on the receive side. A variant's code is not mapped back to the variant (rule R67): it is the type field
of a frame like any other. -/
def decodeTypeIn (code : BitVec 32) (id : I32) (body : Bytes) : Instr :=
  if isVariantCode code then
    .frame .direct { size := BitVec.ofNat 32 (body.length + Config.sizeBias), id := id, type := code, body := body,
                     pad0 := 0, pad1 := 0 }
  else .typeOther .receive code id body

/-- A result code (rule R141). -/
def decodeResult (code : BitVec 3) : Instr :=
  if code = 0 then .resultOk
  else if code = 1 then .resultBodyTooLarge
  else if code = 2 then .resultInvalidLength
  else if code = 3 then .resultShortFrame
  else if code = 4 then .resultBadOp
  else if code = 5 then .resultNotWF
  else if code = 6 then .resultClosed
  else .resultFaulted

/-- A framer state (rule R24). -/
def decodeState (code : BitVec 2) : Instr :=
  if code = 0 then .frmStHdr
  else if code = 1 then .frmStBody
  else if code = 2 then .frmStClosed
  else .frmStFault

/-- The request of a console line with that variant (rule R81, D24). -/
def consoleInstr : Variant → I32 → Bytes → Instr
  | .authRequest, id, body => .serverDataAuth id body
  | .authResponse, id, body => .serverDataAuthResponse id body
  | .execCommand, id, body => .serverDataExecCommand id body
  | .responseValue, id, body => .serverDataResponseValue id body

/-- A console line (rules R80 to R83). DESIGN CHOICE (assumption 8): the order of the tests, which the spec leaves open: at
least two tokens, then the id, then the name, then the body token. So a line of an id and an unknown name with no body token
is `unrecognizedPacketType`, even where a line without a body token is malformed. Whether such a line is a request is a free
value (U15, assumption 9). -/
def decodeConsole (line : Bytes) : Except Reject Instr :=
  match tokens line with
  | idTok :: nameTok :: bodyToks =>
    match id? idTok with
    | none => .error .malformedInput
    | some id =>
      match variantOfName nameTok with
      | none => .error .unrecognizedPacketType
      | some v =>
        if bodyToks.isEmpty && !Config.acceptsBodylessLine then .error .malformedInput
        else .ok (consoleInstr v id (joinTokens bodyToks))
  | _ => .error .malformedInput

/-- The decoder: total, and a rejection only for a console line that is no request (rule R146). -/
def decode : Transfer → Except Reject Instr
  | .op code vsel size id type bytes => .ok (decodeOp code vsel size id type bytes)
  | .wire path bytes => .ok (decodeWire path bytes)
  | .type .transmit code vsel id body => .ok (decodeTypeOut code vsel id body)
  | .type .receive code _ id body => .ok (decodeTypeIn code id body)
  | .result code => .ok (decodeResult code)
  | .state code => .ok (decodeState code)
  | .console line => decodeConsole line

/-- The transfer of an instruction, from the tables of rules R24, R61, R66, R70, R71, R80, R81 and R141. Operand lines an
operation does not use are 0. -/
def encode : Instr → Transfer
  | .construct v id body => .op 0 (vselOf v) 0 id 0 body
  | .encode p => .op 1 0 p.size p.id p.type p.body
  | .decode buf => .op 2 0 0 0 0 buf
  | .frmPush chunk => .op 3 0 0 0 0 chunk
  | .frmEos => .op 3 0 0 0 0 []
  | .reservedOp4 => .op 4 0 0 0 0 []
  | .reservedOp5 => .op 5 0 0 0 0 []
  | .reservedOp6 => .op 6 0 0 0 0 []
  | .reservedOp7 => .op 7 0 0 0 0 []
  | .frame path f => .wire path (frameBytes f)
  | .authRequest id body => .type .transmit 3 0 id body
  | .authResponse id body => .type .transmit 2 1 id body
  | .execCommand id body => .type .transmit 2 2 id body
  | .responseValue id body => .type .transmit 0 3 id body
  | .typeOther side t id body => .type side t 0 id body
  | .resultOk => .result 0
  | .resultBodyTooLarge => .result 1
  | .resultInvalidLength => .result 2
  | .resultShortFrame => .result 3
  | .resultBadOp => .result 4
  | .resultNotWF => .result 5
  | .resultClosed => .result 6
  | .resultFaulted => .result 7
  | .frmStHdr => .state 0
  | .frmStBody => .state 1
  | .frmStClosed => .state 2
  | .frmStFault => .state 3
  | .serverDataAuth id body => .console (consoleLine .authRequest id body)
  | .serverDataAuthResponse id body => .console (consoleLine .authResponse id body)
  | .serverDataExecCommand id body => .console (consoleLine .execCommand id body)
  | .serverDataResponseValue id body => .console (consoleLine .responseValue id body)

/-- `n` bytes of a number, lowest first. -/
def bytesOfNat : Nat → Nat → Bytes
  | 0, _ => []
  | n + 1, w => BitVec.ofNat 8 w :: bytesOfNat n (w / 256)

/-- The transfer whose bits spec/opcode_table.json numbers as `w` (assumption 13). Rows of one byte hold a 3-bit operation
code, rows of up to 32 bits a type field, longer ones the bytes of a frame. Operand lines are zero, a `Bytes` operand is one
zero byte. The RESULT and STATE rows have the numbers of OP rows and cannot be told from them by number. -/
def tableTransfer (nbits w : Nat) : Transfer :=
  if nbits ≤ 8 then .op (BitVec.ofNat 3 w) 0 0 0 0 [0]
  else if nbits ≤ 32 then .type .transmit (BitVec.ofNat 32 w) 0 0 []
  else .wire .direct (bytesOfNat (nbits / 8) w)

/-- The instruction the decoder reads from an opcode-table word. -/
def decodeTableWord (nbits w : Nat) : Option Instr :=
  match decode (tableTransfer nbits w) with
  | .ok i => some i
  | .error _ => none

end Sys2Proof
end

