-- ==== Sys2Proof/Machine/State.lean ====
section
/-! DEFINITION. The state of the block (spec/10_state.md rules R24 to R30), what crosses the interface in each direction,
the reasons the model stops, and reset. -/

namespace Sys2Proof.Machine

/-- FRM_ST of rule R24: four states in 2 bits (`FrmSt.bits`, Machine/Flags.lean). -/
inductive FrmSt where
  | hdr | body | closed | fault
  deriving DecidableEq, Repr

/-- The 3-bit result codes of rule R141, used by outcomes and by FRM_CAUSE (`ResultCode.bits`, Machine/Flags.lean). -/
inductive ResultCode where
  | ok | bodyTooLarge | invalidLength | shortFrame | badOp | notWF | closed | faulted
  deriving DecidableEq, Repr

/-- The faults of the spec (rules R142 to R144). They are outcomes the block reports, not stops of the model. -/
inductive FaultName where
  | bodyTooLarge | invalidLength | shortFrame
  deriving DecidableEq, Repr

/-- The refusals of the spec (rule R145). They are outcomes the block reports, not stops of the model (assumption 4). -/
inductive RefusalName where
  | badOp | notWF | closed | faulted
  deriving DecidableEq, Repr

/-- A fault with the length recorded with it (rules R142 to R144). -/
structure Raised where
  fault : FaultName
  len : Nat
  deriving DecidableEq, Repr

/-- An event of rule R31. -/
inductive Event where
  | packet (p : Packet)
  | fault (f : FaultName) (size : U32)
  | closed (dropped : Nat)
  deriving DecidableEq, Repr

/-- What the block returns to the host. The first six are the outcomes of rule R11 with their results; the last three are
reads, which have no outcome. -/
inductive Reply where
  /-- `ok(P)` of CONSTRUCT and DECODE. -/
  | okPacket (p : Packet)
  /-- `ok(F)` of ENCODE. -/
  | okFrame (f : Bytes)
  /-- `ok(events)` of FRM_PUSH and FRM_EOS. -/
  | okEvents (es : List Event)
  /-- `fault(F)` of CONSTRUCT and DECODE, with the length it records. -/
  | fault (r : Raised)
  /-- `fault(FRM_CAUSE)` of FRM_PUSH, with the events emitted (rule R122). -/
  | frmFault (cause : ResultCode) (es : List Event)
  /-- `refused(reason)`: a mark that stays in `State.replies` (rule R145). -/
  | refused (r : RefusalName)
  /-- The status read of rule R30: FRM_ST, FRM_CNT, FRM_LEN, FRM_CAUSE as bits. -/
  | status (st : BitVec 2) (cnt len : BitVec 13) (cause : BitVec 3)
  /-- A STATE row: the bits of FRM_ST, and whether they are the row's. -/
  | stateRead (st : BitVec 2) (isRow : Bool)
  /-- A RESULT row: the code of the latest outcome (if there is one) and of FRM_CAUSE, and whether each is the row's. -/
  | resultRead (last : Option (BitVec 3)) (cause : BitVec 3) (lastIsRow causeIsRow : Bool)
  deriving DecidableEq, Repr

/-- What the host may do to the block between operations (rules R30, R70, R170, R178). -/
inductive Input where
  /-- A bit pattern of one of the table's code spaces. -/
  | transfer (t : Transfer)
  /-- The status read of rule R30. -/
  | statusRead
  /-- The reset input of rule R170: no operation code selects it. -/
  | reset
  deriving DecidableEq, Repr

/-- FRM_BUF of rule R28 as the bytes written since reset: addresses strictly rising. An address that is not listed holds no
value the model knows. -/
abbrev Memory : Type := List Host.Cell

/-- The framer's state (rules R24 to R28), all of it RX's. -/
structure Framer where
  /-- FRM_ST. -/
  st : FrmSt
  /-- FRM_CNT: bytes of the current frame held in FRM_BUF. -/
  cnt : BitVec 13
  /-- FRM_LEN: total length of the frame being collected, 0 outside BODY. -/
  len : BitVec 13
  /-- FRM_CAUSE: the code of the fault that put the framer in FAULT. -/
  cause : ResultCode
  /-- FRM_BUF. -/
  buf : Memory
  /-- The model's own: the number of resets, which selects the free value of an unwritten byte (assumption 10). -/
  epoch : Nat
  deriving DecidableEq, Repr

/-- The whole state: the framer, and the model's own record of both directions of the host interface. TX and DEC have no
state (rules R12, R20). -/
structure State where
  /-- All of the block's state. -/
  frm : Framer
  /-- The model's own: what the host has issued and is not yet performed, oldest first (assumption 1). -/
  inbox : List Input
  /-- The model's own: what the block has returned, oldest first; nothing is ever taken out (assumption 2). -/
  replies : List Reply
  deriving DecidableEq, Repr

/-- Where the model stops in a state that rule R29 excludes. Both are safe: the model stops, and no run from reset gets
there. -/
inductive Fault where
  /-- An access to FRM_BUF at an index of 4106 or more, where rule R28 has no byte. Raised by FRM_PUSH and a framed FRAME.
  Safe. -/
  | frmBufAddress
  /-- A completed frame that DECODE rejects: rule R126 says it cannot be and gives no effect. Raised by FRM_PUSH and a
  framed FRAME. Safe. -/
  | frameNotDecodable
  deriving DecidableEq, Repr

/-- Where the model gives no meaning. -/
inductive Refusal where
  /-- An instruction with no meaning yet. Raised by no arm of exec now. Safe. -/
  | notModelled (mnemonic : String)
  /-- A console line that is no request (rules R82, R146): a glue error the spec gives no behaviour (rule R3 (d)). Raised by
  step. Safe. -/
  | malformedInput
  /-- A console line with an unknown type name (rules R81, R146): a glue error the spec gives no behaviour (rule R3 (d)).
  Raised by step. Safe. -/
  | unrecognizedPacketType
  deriving DecidableEq, Repr

/-- The framer after reset (rule R34). FRM_BUF is unspecified: nothing is listed (assumption 10). -/
def Framer.reset : Framer :=
  { st := .hdr, cnt := 0, len := 0, cause := .ok, buf := [], epoch := 0 }

/-- The machine right after reset (rule R34), with nothing issued and nothing returned. -/
def State.reset : State :=
  { frm := Framer.reset, inbox := [], replies := [] }

end Sys2Proof.Machine
end

