-- ==== Sys2Proof/Machine/Flags.lean ====
section
/-! DEFINITION. The block has no flags (spec/10_state.md rule R22). What an operation leaves as status is its result code
(spec/60_exceptions.md rule R141); the codes, and the encoding of FRM_ST (rule R24), are here. -/

namespace Sys2Proof.Machine

/-- The number of a result code (rule R141). -/
def ResultCode.bits : ResultCode → BitVec 3
  | .ok => 0
  | .bodyTooLarge => 1
  | .invalidLength => 2
  | .shortFrame => 3
  | .badOp => 4
  | .notWF => 5
  | .closed => 6
  | .faulted => 7

/-- The number of a framer state (rule R24). -/
def FrmSt.bits : FrmSt → BitVec 2
  | .hdr => 0
  | .body => 1
  | .closed => 2
  | .fault => 3

/-- The result code of a fault (rule R141). -/
def FaultName.code : FaultName → ResultCode
  | .bodyTooLarge => .bodyTooLarge
  | .invalidLength => .invalidLength
  | .shortFrame => .shortFrame

/-- The result code of a refusal (rule R141). -/
def RefusalName.code : RefusalName → ResultCode
  | .badOp => .badOp
  | .notWF => .notWF
  | .closed => .closed
  | .faulted => .faulted

/-- The result code that comes with a reply (rule R141); a read is no operation and has none (rule R30). -/
def Reply.code : Reply → Option ResultCode
  | .okPacket _ => some .ok
  | .okFrame _ => some .ok
  | .okEvents _ => some .ok
  | .fault r => some r.fault.code
  | .frmFault cause _ => some cause
  | .refused r => some r.code
  | .status _ _ _ _ => none
  | .stateRead _ _ => none
  | .resultRead _ _ _ _ => none

/-- The result code of the latest outcome among the replies, oldest first; none before the first. -/
def lastCode : List Reply → Option ResultCode
  | [] => none
  | r :: rs =>
    match lastCode rs with
    | some c => some c
    | none => r.code

end Sys2Proof.Machine
end

