-- ==== Sys2Proof/Machine/Operands.lean ====
section
/-! DEFINITION. The tests on operands (spec/40_packet_construct.md R90, spec/41_encode.md R103, spec/42_decode.md R110,
spec/43_framer.md R124) and the results built from them, as functions of the operands alone (rule R20). -/

namespace Sys2Proof.Machine

/-- The admission test of rule R110 on a length, over Nat; rule R124 applies the same test to a declared length. -/
def lengthFault (len : Nat) : Option FaultName :=
  if len < Config.minFrameBytes ∨ Config.maxFrameBytes < len then some .invalidLength
  else if len < Config.frameOverhead then some .shortFrame
  else none

/-- `WF(P)` of rule R10. -/
abbrev PacketWf (p : Packet) : Prop := p.body.length ≤ Config.maxBody

/-- The packet record with that type code and the size of rule R90. -/
def packetOf (type : I32) (id : I32) (body : Bytes) : Packet :=
  { size := BitVec.ofNat 32 (body.length + Config.sizeBias), id := id, type := type, body := body }

/-- CONSTRUCT of rule R90. The bound is over Nat: no length wraps (D15). -/
def constructPacket (v : Variant) (id : I32) (body : Bytes) : Except Raised Packet :=
  if Config.maxFrameBytes < body.length + Config.minFrameBytes then
    .error { fault := .bodyTooLarge, len := body.length }
  else .ok (packetOf (typeField v) id body)

/-- The frame ENCODE lays out (rule R100): the size field is computed, `p.size` is not read (rule R102). -/
def frameOfPacket (p : Packet) : Bytes :=
  frameBytes { size := BitVec.ofNat 32 (p.body.length + Config.sizeBias), id := p.id, type := p.type, body := p.body,
               pad0 := 0, pad1 := 0 }

/-- ENCODE of rules R100 and R103. -/
def encodePacket (p : Packet) : Except RefusalName Bytes :=
  if PacketWf p then .ok (frameOfPacket p) else .error .notWF

/-- The packet in a byte string of 14 bytes or more (rule R110): the pad is not read. -/
def packetOfBytes (b : Bytes) : Packet :=
  { size := u32le (slice b 0 4), id := i32le (slice b 4 8), type := i32le (slice b 8 12),
    body := slice b Config.hdrBytes (b.length - Config.padBytes) }

/-- DECODE of rule R110. -/
def decodeBuffer (b : Bytes) : Except Raised Packet :=
  match lengthFault b.length with
  | some f => .error { fault := f, len := b.length }
  | none => .ok (packetOfBytes b)

end Sys2Proof.Machine
end

