-- ==== Sys2Proof/Machine/Ops.lean ====
section
/-! DEFINITION. The named operations over FRM_BUF, the framer registers and the reply list; taking a fault, reset and the
status read (spec/10_state.md, spec/60_exceptions.md R152, spec/70_reset_and_hazards.md R170). -/

namespace Sys2Proof.Machine

/-- The canonical form of FRM_BUF: every index is one of 0 to 4105 (rule R28), and the indices rise strictly from `lo`. -/
def Memory.wfFrom (lo : Nat) : Memory → Bool
  | [] => true
  | (a, _) :: m => decide (lo ≤ a) && decide (a < Config.frmBufCap) && Memory.wfFrom (a + 1) m

/-- The canonical form of FRM_BUF. -/
def Memory.wf (m : Memory) : Bool := Memory.wfFrom 0 m

/-- The byte listed at an index, if one is: an index that is not listed has no value. -/
def Memory.read? : Memory → Nat → Option Byte
  | [], _ => none
  | (k, v) :: m, a => if k = a then some v else Memory.read? m a

/-- Put a byte at an index, in the canonical form. -/
def Memory.insert : Memory → Nat → Byte → Memory
  | [], a, b => [(a, b)]
  | (k, v) :: m, a, b =>
    if a < k then (a, b) :: (k, v) :: m
    else if a = k then (a, b) :: m
    else (k, v) :: Memory.insert m a b

/-- `MemWrite(FRM_BUF, a, 1, [b])` of rule R9; no byte exists at 4106 or above (rule R28). -/
def Memory.write (m : Memory) (a : Nat) (b : Byte) : Except Fault Memory :=
  if a < Config.frmBufCap then .ok (Memory.insert m a b) else .error .frmBufAddress

/-- The byte FRM_BUF holds at an index: the byte written last, or a free value (U11, assumption 10). -/
def Framer.byteAt (fr : Framer) (a : Nat) : Byte :=
  match Memory.read? fr.buf a with
  | some b => b
  | none => Config.unwrittenByte fr.epoch a

/-- The `n` bytes from index `a`. -/
def Framer.bytesFrom (fr : Framer) : Nat → Nat → Bytes
  | _, 0 => []
  | a, n + 1 => fr.byteAt a :: fr.bytesFrom (a + 1) n

/-- `MemRead(FRM_BUF, a, n)` of rule R9. -/
def Framer.read (fr : Framer) (a n : Nat) : Except Fault Bytes :=
  if a + n ≤ Config.frmBufCap then .ok (fr.bytesFrom a n) else .error .frmBufAddress

/-- Taking a framer fault (rules R124, R152): FRM_ST and FRM_CAUSE are written; FRM_CNT, FRM_LEN and FRM_BUF keep the
rejected size field. -/
def Framer.enterFault (fr : Framer) (f : FaultName) : Framer :=
  { fr with st := .fault, cause := f.code }

/-- The reset input (rule R170), the only way out of FAULT and CLOSED: the registers of rule R34, FRM_BUF unspecified
again. -/
def Framer.toReset (fr : Framer) : Framer :=
  { Framer.reset with epoch := fr.epoch + 1 }

/-- Return one reply to the host. -/
def State.reply (s : State) (r : Reply) : State := { s with replies := s.replies ++ [r] }

/-- The host's reset (rule R170): no reply, nothing else changes. -/
def State.resetFramer (s : State) : State := { s with frm := s.frm.toReset }

/-- The host's status read (rule R30): no side effect. -/
def State.readStatus (s : State) : State :=
  s.reply (.status s.frm.st.bits s.frm.cnt s.frm.len s.frm.cause.bits)

/-- The outcome of CONSTRUCT or DECODE: a packet, or a fault that changes nothing (rules R140, R152). -/
def packetReply : Except Raised Packet → Reply
  | .ok p => .okPacket p
  | .error r => .fault r

/-- The outcome of ENCODE: a frame, or a refusal that changes nothing (rules R103, R145). -/
def frameReply : Except RefusalName Bytes → Reply
  | .ok f => .okFrame f
  | .error r => .refused r

/-- End an operation of FRM: its framer state and its reply, or a stop of the model (assumption 11). -/
def State.finishFrm (s : State) (r : Except Fault (Framer × Reply)) : Host.Outcome State Fault Refusal :=
  match r with
  | .ok (fr, rep) => .next (State.reply { s with frm := fr } rep)
  | .error f => .fault f

/-- Take the oldest input off the list. -/
def State.pop (s : State) : State := { s with inbox := s.inbox.tail }

/-- The stop for a transfer that is no instruction (rule R146). -/
def rejectRefusal : Reject → Refusal
  | .malformedInput => .malformedInput
  | .unrecognizedPacketType => .unrecognizedPacketType

end Sys2Proof.Machine
end

