-- ==== Sys2Proof/Machine/Framer.lean ====
section
/-! DEFINITION. The length-prefixed framer (spec/43_framer.md): the byte step, FRM_PUSH and FRM_EOS. -/

namespace Sys2Proof.Machine

/-- `header_complete()` of rule R124. The declared length is over Nat: no wrap at 2^32 (rule R133 (e)). -/
def headerComplete (fr : Framer) : Except Fault (Framer × List Event) :=
  match fr.read 0 Config.sizeBytes with
  | .error e => .error e
  | .ok field =>
    match lengthFault ((u32le field).toNat + Config.sizeBytes) with
    | some f => .ok (fr.enterFault f, [.fault f (u32le field)])
    | none => .ok ({ fr with len := BitVec.ofNat 13 ((u32le field).toNat + Config.sizeBytes), st := .body }, [])

/-- `frame_complete()` of rule R126. A frame that DECODE rejects cannot be here (rule R29); it stops the model
(assumption 11). -/
def frameComplete (fr : Framer) : Except Fault (Framer × List Event) :=
  match fr.read 0 fr.len.toNat with
  | .error e => .error e
  | .ok bytes =>
    match decodeBuffer bytes with
    | .error _ => .error .frameNotDecodable
    | .ok p => .ok ({ fr with cnt := 0, len := 0, st := .hdr }, [.packet p])

/-- What follows the storing of a byte (rule R121). -/
def afterByte (fr : Framer) : Except Fault (Framer × List Event) :=
  if fr.st = .hdr ∧ fr.cnt = 4 then headerComplete fr
  else if fr.st = .body ∧ fr.cnt = fr.len then frameComplete fr
  else .ok (fr, [])

/-- `frm_byte(b)` of rule R121. -/
def frmByte (fr : Framer) (b : Byte) : Except Fault (Framer × List Event) :=
  match Memory.write fr.buf fr.cnt.toNat b with
  | .error e => .error e
  | .ok buf => afterByte { fr with buf := buf, cnt := fr.cnt + 1 }

/-- The loop of rule R122 over the bytes of a chunk: a framer in FAULT takes no more of them (rule R131). -/
def pushBytes : Framer → Bytes → Except Fault (Framer × List Event)
  | fr, [] => .ok (fr, [])
  | fr, b :: bs =>
    if fr.st = .fault then .ok (fr, [])
    else
      match frmByte fr b with
      | .error e => .error e
      | .ok (fr₁, es₁) =>
        match pushBytes fr₁ bs with
        | .error e => .error e
        | .ok (fr₂, es₂) => .ok (fr₂, es₁ ++ es₂)

/-- The outcome of a push by the state it ends in (rule R122). -/
def pushReply (fr : Framer) (es : List Event) : Reply :=
  if fr.st = .fault then .frmFault fr.cause es else .okEvents es

/-- FRM_EOS of rule R128. -/
def framerEos (fr : Framer) : Framer × Reply :=
  match fr.st with
  | .closed => (fr, .refused .closed)
  | .fault => (fr, .refused .faulted)
  | .hdr => ({ fr with cnt := 0, len := 0, st := .closed }, .okEvents [.closed fr.cnt.toNat])
  | .body => ({ fr with cnt := 0, len := 0, st := .closed }, .okEvents [.closed fr.cnt.toNat])

/-- FRM_PUSH of rule R122 on a chunk with a byte; in CLOSED and FAULT it is refused (rule R127). -/
def pushChunk (fr : Framer) (chunk : Bytes) : Except Fault (Framer × Reply) :=
  match fr.st with
  | .closed => .ok (fr, .refused .closed)
  | .fault => .ok (fr, .refused .faulted)
  | _ =>
    match pushBytes fr chunk with
    | .error e => .error e
    | .ok (fr', es) => .ok (fr', pushReply fr' es)

/-- Operation 3 of rule R70: an empty chunk is the end of stream. -/
def framerPush (fr : Framer) (chunk : Bytes) : Except Fault (Framer × Reply) :=
  if chunk.isEmpty then .ok (framerEos fr) else pushChunk fr chunk

/-- FRM_PUSH (rule R122). -/
def execFrmPush (chunk : Bytes) (s : State) : Host.Outcome State Fault Refusal :=
  s.finishFrm (framerPush s.frm chunk)

/-- FRM_EOS (rule R128). -/
def execFrmEos (s : State) : Host.Outcome State Fault Refusal :=
  s.finishFrm (.ok (framerEos s.frm))

end Sys2Proof.Machine
end

