-- ==== Sys2Proof/Machine/Codec.lean ====
section
/-! DEFINITION. CONSTRUCT, ENCODE, DECODE (spec/40_packet_construct.md, 41_encode.md, 42_decode.md), the reserved operation
codes (rule R72), and the FRAME row: one frame received. None of CONSTRUCT, ENCODE, DECODE reads or writes the framer. -/

namespace Sys2Proof.Machine

/-- CONSTRUCT (rule R90). -/
def execConstruct (v : Variant) (id : I32) (body : Bytes) (s : State) : Host.Outcome State Fault Refusal :=
  .next (s.reply (packetReply (constructPacket v id body)))

/-- ENCODE (rules R100, R103). -/
def execEncode (p : Packet) (s : State) : Host.Outcome State Fault Refusal :=
  .next (s.reply (frameReply (encodePacket p)))

/-- DECODE (rule R110). -/
def execDecode (buf : Bytes) (s : State) : Host.Outcome State Fault Refusal :=
  .next (s.reply (packetReply (decodeBuffer buf)))

/-- A reserved operation code (rule R72): refused, nothing read or written (assumption 4). -/
def badOp (s : State) : Host.Outcome State Fault Refusal := .next (s.reply (.refused .badOp))

/-- RESERVED_OP4 (rule R72). -/
def execReservedOp4 (s : State) : Host.Outcome State Fault Refusal := badOp s
/-- RESERVED_OP5 (rule R72). -/
def execReservedOp5 (s : State) : Host.Outcome State Fault Refusal := badOp s
/-- RESERVED_OP6 (rule R72). -/
def execReservedOp6 (s : State) : Host.Outcome State Fault Refusal := badOp s
/-- RESERVED_OP7 (rule R72). -/
def execReservedOp7 (s : State) : Host.Outcome State Fault Refusal := badOp s

/-- A FRAME received (rules R61, R68, R69): its bytes are the buffer of DECODE on the direct path, and a chunk pushed to the
framer on the framed path. DESIGN CHOICE (assumption 6). -/
def execFrame (path : RxPath) (f : Frame) (s : State) : Host.Outcome State Fault Refusal :=
  match path with
  | .direct => .next (s.reply (packetReply (decodeBuffer (frameBytes f))))
  | .framed => s.finishFrm (framerPush s.frm (frameBytes f))

end Sys2Proof.Machine
end

