-- ==== Sys2Proof/Machine/TypeRows.lean ====
section
/-! DEFINITION. The TYPE rows (spec/30_encoding.md rules R64, R66, R67, R71): what the block does with each code of the
type field. DESIGN CHOICE (assumption 5). -/

namespace Sys2Proof.Machine

/-- Construct a packet of a variant (rules R66, R71, R90). -/
def constructVariant (v : Variant) (id : I32) (body : Bytes) (s : State) : Host.Outcome State Fault Refusal :=
  .next (s.reply (packetReply (constructPacket v id body)))

/-- AuthRequest: selector 0, wire code 3. -/
def execAuthRequest (id : I32) (body : Bytes) (s : State) : Host.Outcome State Fault Refusal :=
  constructVariant .authRequest id body s

/-- AuthResponse: selector 1, wire code 2. -/
def execAuthResponse (id : I32) (body : Bytes) (s : State) : Host.Outcome State Fault Refusal :=
  constructVariant .authResponse id body s

/-- ExecCommand: selector 2, wire code 2. -/
def execExecCommand (id : I32) (body : Bytes) (s : State) : Host.Outcome State Fault Refusal :=
  constructVariant .execCommand id body s

/-- ResponseValue: selector 3, wire code 0. -/
def execResponseValue (id : I32) (body : Bytes) (s : State) : Host.Outcome State Fault Refusal :=
  constructVariant .responseValue id body s

/-- TYPE_OTHER (rules R64, R69): on the transmit side ENCODE writes the code the packet holds; on the receive side DECODE
stores it raw. -/
def execTypeOther (side : Side) (type id : I32) (body : Bytes) (s : State) : Host.Outcome State Fault Refusal :=
  match side with
  | .transmit => .next (s.reply (frameReply (encodePacket (packetOf type id body))))
  | .receive => .next (s.reply (packetReply (decodeBuffer (frameOfPacket (packetOf type id body)))))

end Sys2Proof.Machine
end

