-- ==== Sys2Proof/Machine/StatusRows.lean ====
section
/-! DEFINITION. The RESULT rows (spec/60_exceptions.md rule R141) and the STATE rows (spec/10_state.md rules R24, R30): the
host reads a code that the block drives and tells it against the row's. No side effect (rule R30). DESIGN CHOICE
(assumption 7). -/

namespace Sys2Proof.Machine

/-- Read the latest result code and FRM_CAUSE (rules R27, R30, R141). -/
def readResult (row : ResultCode) (s : State) : Host.Outcome State Fault Refusal :=
  .next (s.reply (.resultRead ((lastCode s.replies).map ResultCode.bits) s.frm.cause.bits
    (decide (lastCode s.replies = some row)) (decide (s.frm.cause = row))))

/-- Read FRM_ST (rules R24, R30). -/
def readState (row : FrmSt) (s : State) : Host.Outcome State Fault Refusal :=
  .next (s.reply (.stateRead s.frm.st.bits (decide (s.frm.st = row))))

/-- RESULT_OK: code 0. -/
def execResultOk (s : State) : Host.Outcome State Fault Refusal := readResult .ok s
/-- RESULT_BodyTooLarge: code 1 (rule R142). -/
def execResultBodyTooLarge (s : State) : Host.Outcome State Fault Refusal := readResult .bodyTooLarge s
/-- RESULT_InvalidLength: code 2 (rule R143). -/
def execResultInvalidLength (s : State) : Host.Outcome State Fault Refusal := readResult .invalidLength s
/-- RESULT_ShortFrame: code 3 (rule R144). -/
def execResultShortFrame (s : State) : Host.Outcome State Fault Refusal := readResult .shortFrame s
/-- RESULT_BadOp: code 4 (rule R145). -/
def execResultBadOp (s : State) : Host.Outcome State Fault Refusal := readResult .badOp s
/-- RESULT_NotWF: code 5 (rule R145). -/
def execResultNotWF (s : State) : Host.Outcome State Fault Refusal := readResult .notWF s
/-- RESULT_Closed: code 6 (rule R145). -/
def execResultClosed (s : State) : Host.Outcome State Fault Refusal := readResult .closed s
/-- RESULT_Faulted: code 7 (rule R145). -/
def execResultFaulted (s : State) : Host.Outcome State Fault Refusal := readResult .faulted s

/-- FRM_ST_HDR: 0. -/
def execFrmStHdr (s : State) : Host.Outcome State Fault Refusal := readState .hdr s
/-- FRM_ST_BODY: 1. -/
def execFrmStBody (s : State) : Host.Outcome State Fault Refusal := readState .body s
/-- FRM_ST_CLOSED: 2. -/
def execFrmStClosed (s : State) : Host.Outcome State Fault Refusal := readState .closed s
/-- FRM_ST_FAULT: 3. -/
def execFrmStFault (s : State) : Host.Outcome State Fault Refusal := readState .fault s

end Sys2Proof.Machine
end

