-- ==== Sys2Proof/Machine/Console.lean ====
section
/-! DEFINITION. The CONSOLE rows (spec/30_encoding.md rules R80, R81): a line stands for
ENCODE(CONSTRUCT(vsel(TYPE_NAME), id, body)). Assumption 8. -/

namespace Sys2Proof.Machine

/-- The outcome of the request of rule R80: CONSTRUCT's fault if it has one, else ENCODE's outcome. -/
def requestReply (v : Variant) (id : I32) (body : Bytes) : Reply :=
  match constructPacket v id body with
  | .error r => .fault r
  | .ok p => frameReply (encodePacket p)

/-- SERVER_DATA_AUTH: AuthRequest (rule R81). -/
def execServerDataAuth (id : I32) (body : Bytes) (s : State) : Host.Outcome State Fault Refusal :=
  .next (s.reply (requestReply .authRequest id body))

/-- SERVER_DATA_AUTH_RESPONSE: AuthResponse (rule R81). -/
def execServerDataAuthResponse (id : I32) (body : Bytes) (s : State) : Host.Outcome State Fault Refusal :=
  .next (s.reply (requestReply .authResponse id body))

/-- SERVER_DATA_EXEC_COMMAND: ExecCommand (rule R81). -/
def execServerDataExecCommand (id : I32) (body : Bytes) (s : State) : Host.Outcome State Fault Refusal :=
  .next (s.reply (requestReply .execCommand id body))

/-- SERVER_DATA_RESPONSE_VALUE: ResponseValue (rule R81). -/
def execServerDataResponseValue (id : I32) (body : Bytes) (s : State) : Host.Outcome State Fault Refusal :=
  .next (s.reply (requestReply .responseValue id body))

end Sys2Proof.Machine
end

