-- ==== Sys2Proof/Machine/Dispatch.lean ====
section
/-! DEFINITION. One arm per row of spec/opcode_table.json: the meaning of each instruction. -/

namespace Sys2Proof.Machine

open Sys2Proof

def exec (i : Instr) (s : State) : Host.Outcome State Fault Refusal :=
  match i with
  | .construct v id body => Sys2Proof.Machine.execConstruct v id body s
  | .encode p => Sys2Proof.Machine.execEncode p s
  | .decode buf => Sys2Proof.Machine.execDecode buf s
  | .frmPush chunk => Sys2Proof.Machine.execFrmPush chunk s
  | .frmEos => Sys2Proof.Machine.execFrmEos s
  | .reservedOp4 => Sys2Proof.Machine.execReservedOp4 s
  | .reservedOp5 => Sys2Proof.Machine.execReservedOp5 s
  | .reservedOp6 => Sys2Proof.Machine.execReservedOp6 s
  | .reservedOp7 => Sys2Proof.Machine.execReservedOp7 s
  | .frame path f => Sys2Proof.Machine.execFrame path f s
  | .authRequest id body => Sys2Proof.Machine.execAuthRequest id body s
  | .authResponse id body => Sys2Proof.Machine.execAuthResponse id body s
  | .execCommand id body => Sys2Proof.Machine.execExecCommand id body s
  | .responseValue id body => Sys2Proof.Machine.execResponseValue id body s
  | .typeOther side type id body => Sys2Proof.Machine.execTypeOther side type id body s
  | .resultOk => Sys2Proof.Machine.execResultOk s
  | .resultBodyTooLarge => Sys2Proof.Machine.execResultBodyTooLarge s
  | .resultInvalidLength => Sys2Proof.Machine.execResultInvalidLength s
  | .resultShortFrame => Sys2Proof.Machine.execResultShortFrame s
  | .resultBadOp => Sys2Proof.Machine.execResultBadOp s
  | .resultNotWF => Sys2Proof.Machine.execResultNotWF s
  | .resultClosed => Sys2Proof.Machine.execResultClosed s
  | .resultFaulted => Sys2Proof.Machine.execResultFaulted s
  | .frmStHdr => Sys2Proof.Machine.execFrmStHdr s
  | .frmStBody => Sys2Proof.Machine.execFrmStBody s
  | .frmStClosed => Sys2Proof.Machine.execFrmStClosed s
  | .frmStFault => Sys2Proof.Machine.execFrmStFault s
  | .serverDataAuth id body => Sys2Proof.Machine.execServerDataAuth id body s
  | .serverDataAuthResponse id body => Sys2Proof.Machine.execServerDataAuthResponse id body s
  | .serverDataExecCommand id body => Sys2Proof.Machine.execServerDataExecCommand id body s
  | .serverDataResponseValue id body => Sys2Proof.Machine.execServerDataResponseValue id body s

end Sys2Proof.Machine
end

