-- ==== Sys2Proof/Machine/Step.lean ====
section
/-! DEFINITION. One step: the oldest input of the host is performed. -/

namespace Sys2Proof.Machine

/-- One step (rules R12, R165, R170, R178). With nothing issued the block is idle and keeps its state (rule R165). -/
def step (s : State) : Host.Outcome State Fault Refusal :=
  match s.inbox with
  | [] => .next s
  | .reset :: _ => .next s.pop.resetFramer
  | .statusRead :: _ => .next s.pop.readStatus
  | .transfer t :: _ =>
    match decode t with
    | .ok i => exec i s.pop
    | .error e => .refused (rejectRefusal e)

/-- `s` with the opcode-table word `w` issued as the next input: the host's act of issuing an operation (assumption 15). -/
def State.withFetchWord (s : State) (nbits w : Nat) : State :=
  { s with inbox := .transfer (tableTransfer nbits w) :: s.inbox }

end Sys2Proof.Machine
end

