-- ==== Sys2Proof/Safety.lean ====
section
/-! DEFINITION. The terms claims are made in: the state invariant of rule R29, what a run has returned, and how a run of the
receive side ends (rule R173). -/

namespace Sys2Proof.Safety

open Machine

/-- The declared size in FRM_BUF[0..4], as a number (rules R29, R124). -/
def declaredSize (fr : Framer) : Nat :=
  (fr.byteAt 0).toNat + 256 * (fr.byteAt 1).toNat + 65536 * (fr.byteAt 2).toNat + 16777216 * (fr.byteAt 3).toNat

/-- Rule R29 (a). -/
abbrev InHdr (fr : Framer) : Prop :=
  fr.st = .hdr ∧ fr.cnt.toNat ≤ 3 ∧ fr.len.toNat = 0 ∧ fr.cause = .ok

/-- Rule R29 (b). -/
abbrev InBody (fr : Framer) : Prop :=
  fr.st = .body ∧ 14 ≤ fr.len.toNat ∧ fr.len.toNat ≤ 4106 ∧ 4 ≤ fr.cnt.toNat ∧ fr.cnt.toNat < fr.len.toNat ∧
    fr.cause = .ok ∧ declaredSize fr + 4 = fr.len.toNat

/-- Rule R29 (c). -/
abbrev InClosed (fr : Framer) : Prop :=
  fr.st = .closed ∧ fr.cnt.toNat = 0 ∧ fr.len.toNat = 0 ∧ fr.cause = .ok

/-- Rule R29 (d): FRM_BUF[0..4] is a size field that rule R124 rejects with the fault in FRM_CAUSE. -/
abbrev InFault (fr : Framer) : Prop :=
  fr.st = .fault ∧ fr.cnt.toNat = 4 ∧ fr.len.toNat = 0 ∧
    ((fr.cause = .invalidLength ∧ (declaredSize fr ≤ 5 ∨ 4103 ≤ declaredSize fr)) ∨
     (fr.cause = .shortFrame ∧ 6 ≤ declaredSize fr ∧ declaredSize fr ≤ 9))

/-- The state invariant of rule R29. -/
abbrev FramerOk (fr : Framer) : Prop := InHdr fr ∨ InBody fr ∨ InClosed fr ∨ InFault fr

/-- Every byte of FRM_BUF that rule R28 calls meaningful, FRM_BUF[0..FRM_CNT], has been written since reset. -/
abbrev Written (fr : Framer) : Prop := ∀ a, a < fr.cnt.toNat → (Memory.read? fr.buf a).isSome = true

/-- What holds between operations: rule R29, rule R28's "never read before they are written", and the canonical form of
FRM_BUF. -/
abbrev FrmInv (fr : Framer) : Prop := FramerOk fr ∧ Written fr ∧ Memory.wf fr.buf = true

/-- The events a reply carries (rule R31). -/
def replyEvents : Reply → List Event
  | .okPacket _ => []
  | .okFrame _ => []
  | .okEvents es => es
  | .fault _ => []
  | .frmFault _ es => es
  | .refused _ => []
  | .status _ _ _ _ => []
  | .stateRead _ _ => []
  | .resultRead _ _ _ _ => []

/-- The events of a run, in the order emitted (rule R31). -/
def eventsOf : List Reply → List Event
  | [] => []
  | r :: rs => replyEvents r ++ eventsOf rs

/-- The transmit stream of a host that writes every frame whole, in order (rules R54, R104; program P1). -/
def transmitted : List Reply → Bytes
  | [] => []
  | .okFrame f :: rs => f ++ transmitted rs
  | _ :: rs => transmitted rs

/-- No operation was refused: a claim that wants rule R145's mark to count takes this as a premise or a conclusion. -/
def noRefusal : List Reply → Bool
  | [] => true
  | .refused _ :: _ => false
  | _ :: rs => noRefusal rs

/-- The receive side has ended (rule R173). -/
abbrev rxEnded (s : State) : Prop := s.frm.st = .closed ∨ s.frm.st = .fault

/-- The receive side has ended cleanly: the last event is `Closed(0)` (rule R173). -/
abbrev rxEndedCleanly (s : State) : Prop :=
  s.frm.st = .closed ∧ (eventsOf s.replies).getLast? = some (.closed 0)

/-- The instructions whose reply and effect depend on their operands alone (rule R20): everything but the operations of
FRM, a frame on the framed path, and the reads. -/
def isPure : Instr → Bool
  | .construct _ _ _ => true
  | .encode _ => true
  | .decode _ => true
  | .frmPush _ => false
  | .frmEos => false
  | .reservedOp4 => true
  | .reservedOp5 => true
  | .reservedOp6 => true
  | .reservedOp7 => true
  | .frame .direct _ => true
  | .frame .framed _ => false
  | .authRequest _ _ => true
  | .authResponse _ _ => true
  | .execCommand _ _ => true
  | .responseValue _ _ => true
  | .typeOther _ _ _ _ => true
  | .resultOk => false
  | .resultBodyTooLarge => false
  | .resultInvalidLength => false
  | .resultShortFrame => false
  | .resultBadOp => false
  | .resultNotWF => false
  | .resultClosed => false
  | .resultFaulted => false
  | .frmStHdr => false
  | .frmStBody => false
  | .frmStClosed => false
  | .frmStFault => false
  | .serverDataAuth _ _ => true
  | .serverDataAuthResponse _ _ => true
  | .serverDataExecCommand _ _ => true
  | .serverDataResponseValue _ _ => true

/-- The operations of FRM (rules R122, R128), and a frame on the framed path (rule R68): neither pure nor a read. -/
def isFrm (i : Instr) : Bool := !isPure i && i.format != .result && i.format != .state

/-- What the framed path emits for a list of frames (rule R130): the packets DECODE gives, up to the first frame DECODE
faults on, and that fault with the declared size. -/
def decodedEvents : List Bytes → List Event
  | [] => []
  | f :: fs =>
    match decodeBuffer f with
    | .ok p => .packet p :: decodedEvents fs
    | .error r => [.fault r.fault (BitVec.ofNat 32 (f.length - 4))]

end Sys2Proof.Safety
end

