-- ==== Sys2Proof/Certificates/Slice0/Obligations.lean ====
section
/-! DEFINITION. The statements for the provers, from the numbered rules of spec/. -/

open Sys2Proof Sys2Proof.Machine Sys2Proof.Safety

/-! ## Reset, status, step -/

/-- Rule R34: what reset leaves in the four registers; FRM_BUF is unspecified and nothing is said of it here. -/
def Obligations.ResetLeavesTheFramerEmpty : Prop :=
  State.reset.frm.st.bits = 0 ∧ State.reset.frm.cnt = 0 ∧ State.reset.frm.len = 0 ∧ State.reset.frm.cause.bits = 0

/-- Rule R170: the reset input from any state, with its frame: no reply, and the later inputs wait as before. That FRM_BUF
lists nothing is the model's form of "unspecified" (assumption 10). -/
def Obligations.ResetInputEmptiesTheFramer : Prop :=
  ∀ (s : State) (rest : List Input), s.inbox = .reset :: rest →
    ∃ t, step s = .next t ∧ t.frm.st = .hdr ∧ t.frm.cnt = 0 ∧ t.frm.len = 0 ∧ t.frm.cause = .ok ∧
      (∀ a, Memory.read? t.frm.buf a = none) ∧ t.replies = s.replies ∧ t.inbox = rest

/-- Rule R30: the status read returns the four registers and changes nothing else. -/
def Obligations.StatusReadReturnsTheRegisters : Prop :=
  ∀ (s : State) (rest : List Input), s.inbox = .statusRead :: rest →
    ∃ t, step s = .next t ∧ t.frm = s.frm ∧ t.inbox = rest ∧
      t.replies = s.replies ++ [.status s.frm.st.bits s.frm.cnt s.frm.len s.frm.cause.bits]

/-- A step performs the decoded instruction on the state with that input taken off (assumptions 1 and 13). -/
def Obligations.StepRunsTheDecodedInstruction : Prop :=
  ∀ (s : State) (x : Transfer) (rest : List Input) (i : Instr), s.inbox = .transfer x :: rest → decode x = .ok i →
    step s = exec i { s with inbox := rest }

/-- Rule R165: with nothing issued the block is idle and keeps all of its state. -/
def Obligations.IdleStepKeepsTheState : Prop :=
  ∀ s : State, s.inbox = [] → step s = .next s

/-- Rules R11, R31: every instruction that answers a next state returns exactly one reply, which has a result code unless
the instruction is a read, and leaves the waiting inputs alone. -/
def Obligations.EveryInstructionReturnsOneReply : Prop :=
  ∀ (i : Instr) (s t : State), exec i s = .next t →
    t.inbox = s.inbox ∧ ∃ r, t.replies = s.replies ++ [r] ∧ (r.code = none ↔ i.format = .result ∨ i.format = .state)

/-! ## Byte order and signed values -/

/-- Rule R7: the little-endian conversions, byte by byte, and that each undoes the other. -/
def Obligations.LittleEndianConversions : Prop :=
  (∀ v : U32, ∀ k : Nat, k < 4 → ((le32 v).getD k 0).toNat = v.toNat / 256 ^ k % 256) ∧
  (∀ b0 b1 b2 b3 : Byte,
    (u32le [b0, b1, b2, b3]).toNat = b0.toNat + 256 * b1.toNat + 65536 * b2.toNat + 16777216 * b3.toNat) ∧
  (∀ v : U32, u32le (le32 v) = v) ∧
  (∀ b : Bytes, b.length = 4 → le32 (u32le b) = b)

/-- Rule R8: signed values. The representation is two's complement, which the spec itself marks as general knowledge (G1,
assumption 12). -/
def Obligations.SignedConversions : Prop :=
  (∀ n : Int, -2147483648 ≤ n → n ≤ 2147483647 →
    ((bits32 n).toNat : Int) = (if 0 ≤ n then n else n + 4294967296) ∧ sint32 (bits32 n) = n) ∧
  (∀ u : I32, sint32 u = (if u.toNat < 2147483648 then (u.toNat : Int) else (u.toNat : Int) - 4294967296) ∧
    bits32 (sint32 u) = u) ∧
  (∀ b0 b1 b2 b3 : Byte, i32le [b0, b1, b2, b3] = u32le [b0, b1, b2, b3]) ∧
  (∀ n : I32, le32s n = le32 n)

/-! ## CONSTRUCT, ENCODE, DECODE -/

/-- Rule R90, with rule R71's selectors: CONSTRUCT by its code and its four selectors, its result and its fault; the block's state is as before
but for the reply. -/
def Obligations.ConstructGivesThePacket : Prop :=
  ∀ (id : I32) (body : Bytes) (s : State),
    (∀ (size : U32) (type : I32),
      decode (.op 0 0b00#2 size id type body) = .ok (.construct .authRequest id body) ∧
      decode (.op 0 0b01#2 size id type body) = .ok (.construct .authResponse id body) ∧
      decode (.op 0 0b10#2 size id type body) = .ok (.construct .execCommand id body) ∧
      decode (.op 0 0b11#2 size id type body) = .ok (.construct .responseValue id body)) ∧
    (body.length ≤ 4096 → ∀ v : Variant, ∃ p : Packet, exec (.construct v id body) s = .next (s.reply (.okPacket p)) ∧
      p.size.toNat = body.length + 10 ∧ p.id = id ∧ p.body = body ∧
      sint32 p.type = (match v with | .authRequest => 3 | .authResponse => 2 | .execCommand => 2 | .responseValue => 0)) ∧
    (4097 ≤ body.length → ∀ v : Variant,
      exec (.construct v id body) s = .next (s.reply (.fault { fault := .bodyTooLarge, len := body.length })))

/-- Rules R100 and R103: ENCODE by its code; the frame it returns, byte by byte, whatever the stored size; its refusal. -/
def Obligations.EncodeLaysOutTheFrame : Prop :=
  ∀ (p : Packet) (s : State),
    (∀ vsel : BitVec 2, decode (.op 1 vsel p.size p.id p.type p.body) = .ok (.encode p)) ∧
    (p.body.length ≤ 4096 → ∃ f : Bytes, exec (.encode p) s = .next (s.reply (.okFrame f)) ∧
      f = [BitVec.ofNat 8 (p.body.length + 10), BitVec.ofNat 8 ((p.body.length + 10) / 256), 0, 0]
        ++ [p.id.extractLsb' 0 8, p.id.extractLsb' 8 8, p.id.extractLsb' 16 8, p.id.extractLsb' 24 8]
        ++ [p.type.extractLsb' 0 8, p.type.extractLsb' 8 8, p.type.extractLsb' 16 8, p.type.extractLsb' 24 8]
        ++ p.body ++ [0, 0]) ∧
    (4097 ≤ p.body.length → exec (.encode p) s = .next (s.reply (.refused .notWF))) ∧
    (Reply.refused .notWF).code.map ResultCode.bits = some 5

/-- Rules R101 and R102: the length of the frame, its size field, and that the stored size is not read. -/
def Obligations.EncodedLengthAndSizeField : Prop :=
  ∀ p : Packet, p.body.length ≤ 4096 → ∃ f : Bytes,
    (∀ (z : U32) (s : State), exec (.encode { p with size := z }) s = .next (s.reply (.okFrame f))) ∧
    f.length = 14 + p.body.length ∧ 14 ≤ f.length ∧ f.length ≤ 4110 ∧
    (u32le (slice f 0 4)).toNat = f.length - 4 ∧ 10 ≤ f.length - 4 ∧ f.length - 4 ≤ 4106

/-- Rule R92: the size a constructed packet carries is the value ENCODE writes for it. -/
def Obligations.ConstructedSizeIsTheWireSize : Prop :=
  ∀ (v : Variant) (id : I32) (body : Bytes) (p : Packet) (s s' : State),
    exec (.construct v id body) s = .next (s.reply (.okPacket p)) →
    ∃ f, exec (.encode p) s' = .next (s'.reply (.okFrame f)) ∧ u32le (slice f 0 4) = p.size

/-- Rules R110 to R112: DECODE by its code; on every buffer of 14 to 4106 bytes, whatever it contains, its result field by
field; on every other length its fault, with the length it records. -/
def Obligations.DecodeReadsTheFields : Prop :=
  ∀ (b : Bytes) (s : State),
    (∀ (vsel : BitVec 2) (size : U32) (id type : I32), decode (.op 2 vsel size id type b) = .ok (.decode b)) ∧
    (14 ≤ b.length → b.length ≤ 4106 → ∃ p : Packet, exec (.decode b) s = .next (s.reply (.okPacket p)) ∧
      p.size.toNat = (b.getD 0 0).toNat + 256 * (b.getD 1 0).toNat + 65536 * (b.getD 2 0).toNat
        + 16777216 * (b.getD 3 0).toNat ∧
      p.id.toNat = (b.getD 4 0).toNat + 256 * (b.getD 5 0).toNat + 65536 * (b.getD 6 0).toNat
        + 16777216 * (b.getD 7 0).toNat ∧
      p.type.toNat = (b.getD 8 0).toNat + 256 * (b.getD 9 0).toNat + 65536 * (b.getD 10 0).toNat
        + 16777216 * (b.getD 11 0).toNat ∧
      p.body.length = b.length - 14 ∧ ∀ k, k < b.length - 14 → p.body[k]? = b[12 + k]?) ∧
    (b.length ≤ 9 ∨ 4107 ≤ b.length →
      exec (.decode b) s = .next (s.reply (.fault { fault := .invalidLength, len := b.length }))) ∧
    (10 ≤ b.length ∧ b.length ≤ 13 →
      exec (.decode b) s = .next (s.reply (.fault { fault := .shortFrame, len := b.length })))

/-- Rules R65 and R112 (b), U1: no pad value changes what DECODE gives. -/
def Obligations.DecodeIgnoresThePad : Prop :=
  ∀ (b : Bytes) (x0 x1 y0 y1 : Byte) (s : State), 12 ≤ b.length →
    exec (.decode (b ++ [x0, x1])) s = exec (.decode (b ++ [y0, y1])) s

/-- Rule R114, both directions, with its upper bound. -/
def Obligations.EncodeAndDecodeRoundTrip : Prop :=
  (∀ (p : Packet) (s : State), p.body.length ≤ 4092 →
    ∃ f q, exec (.encode p) s = .next (s.reply (.okFrame f)) ∧ exec (.decode f) s = .next (s.reply (.okPacket q)) ∧
      q.id = p.id ∧ q.type = p.type ∧ q.body = p.body ∧ q.size.toNat = p.body.length + 10 ∧
      ((∃ v id body, exec (.construct v id body) s = .next (s.reply (.okPacket p))) → q = p)) ∧
  (∀ (p : Packet) (s : State), 4093 ≤ p.body.length → p.body.length ≤ 4096 →
    ∃ f, exec (.encode p) s = .next (s.reply (.okFrame f)) ∧ 4107 ≤ f.length ∧ f.length ≤ 4110 ∧
      exec (.decode f) s = .next (s.reply (.fault { fault := .invalidLength, len := f.length }))) ∧
  (∀ (b : Bytes) (s : State), 14 ≤ b.length → b.length ≤ 4106 →
    ∃ p f, exec (.decode b) s = .next (s.reply (.okPacket p)) ∧ exec (.encode p) s = .next (s.reply (.okFrame f)) ∧
      f = le32 (BitVec.ofNat 32 (b.length - 4)) ++ slice b 4 (b.length - 2) ++ [0, 0])

/-- Rules R67 and R183: no function of the frame recovers the variant it was built from. -/
def Obligations.NoDecoderRecoversTheVariant : Prop :=
  ¬∃ g : Bytes → Variant, ∀ (v : Variant) (id : I32) (body : Bytes) (p : Packet) (f : Bytes) (s : State),
    exec (.construct v id body) s = .next (s.reply (.okPacket p)) →
    exec (.encode p) s = .next (s.reply (.okFrame f)) → g f = v

/-- Rule R113 (program P3): two frames in one read, on the direct path, come out as one packet without a fault. -/
def Obligations.CoalescedReadIsOnePacket : Prop :=
  ∀ (p q : Packet) (f g : Bytes) (s : State),
    exec (.encode p) s = .next (s.reply (.okFrame f)) → exec (.encode q) s = .next (s.reply (.okFrame g)) →
    f.length + g.length ≤ 4106 →
    ∃ r : Packet, exec (.decode (f ++ g)) s = .next (s.reply (.okPacket r)) ∧ r.id = p.id ∧ r.type = p.type ∧
      r.size.toNat = p.body.length + 10 ∧ r.body = p.body ++ [0, 0] ++ slice g 0 (g.length - 2)

/-- Rule R72: an operation code of 4 to 7, with any operands, is refused with code 4 and changes nothing else. -/
def Obligations.ReservedCodesAreRefused : Prop :=
  ∀ (code : BitVec 3) (vsel : BitVec 2) (size : U32) (id type : I32) (bytes : Bytes) (s : State) (rest : List Input),
    4 ≤ code.toNat → s.inbox = .transfer (.op code vsel size id type bytes) :: rest →
    ∃ t, step s = .next t ∧ t.frm = s.frm ∧ t.inbox = rest ∧ t.replies = s.replies ++ [.refused .badOp] ∧
      (Reply.refused .badOp).code.map ResultCode.bits = some 4

/-- Rule R72: each of the four reserved rows completes with its refusal, in every state. -/
def Obligations.ReservedRowsComplete : Prop :=
  ∀ s : State,
    exec .reservedOp4 s = .next (s.reply (.refused .badOp)) ∧ exec .reservedOp5 s = .next (s.reply (.refused .badOp)) ∧
    exec .reservedOp6 s = .next (s.reply (.refused .badOp)) ∧ exec .reservedOp7 s = .next (s.reply (.refused .badOp))

/-! ## The framer -/

/-- Rule R123: header bytes 1 to 3, with the frame: the byte is stored at FRM_CNT, every other byte and register stays. -/
def Obligations.HeaderByteIsStored : Prop :=
  ∀ (s : State) (b : Byte), s.frm.st = .hdr → s.frm.cnt.toNat ≤ 2 →
    ∃ t, exec (.frmPush [b]) s = .next t ∧ t.frm.st = .hdr ∧ t.frm.cnt.toNat = s.frm.cnt.toNat + 1 ∧
      t.frm.len = s.frm.len ∧ t.frm.cause = s.frm.cause ∧
      (∀ a, t.frm.byteAt a = if a = s.frm.cnt.toNat then b else s.frm.byteAt a) ∧
      t.inbox = s.inbox ∧ t.replies = s.replies ++ [.okEvents []]

/-- Rule R124: the fourth header byte: the three outcomes by the declared size, with the frame. -/
def Obligations.SizeFieldIsJudged : Prop :=
  ∀ (s : State) (b : Byte) (size : U32), s.frm.st = .hdr → s.frm.cnt.toNat = 3 →
    size.toNat = (s.frm.byteAt 0).toNat + 256 * (s.frm.byteAt 1).toNat + 65536 * (s.frm.byteAt 2).toNat
      + 16777216 * b.toNat →
    ∃ t, exec (.frmPush [b]) s = .next t ∧ t.frm.cnt.toNat = 4 ∧ t.inbox = s.inbox ∧
      (∀ a, t.frm.byteAt a = if a = 3 then b else s.frm.byteAt a) ∧
      (size.toNat ≤ 5 ∨ 4103 ≤ size.toNat → t.frm.st = .fault ∧ t.frm.cause = .invalidLength ∧ t.frm.len = s.frm.len ∧
        t.replies = s.replies ++ [.frmFault .invalidLength [.fault .invalidLength size]]) ∧
      (6 ≤ size.toNat ∧ size.toNat ≤ 9 → t.frm.st = .fault ∧ t.frm.cause = .shortFrame ∧ t.frm.len = s.frm.len ∧
        t.replies = s.replies ++ [.frmFault .shortFrame [.fault .shortFrame size]]) ∧
      (10 ≤ size.toNat ∧ size.toNat ≤ 4102 → t.frm.st = .body ∧ t.frm.cause = s.frm.cause ∧
        t.frm.len.toNat = size.toNat + 4 ∧ t.replies = s.replies ++ [.okEvents []])

/-- Rule R125: a body byte that is not the last, with the frame. -/
def Obligations.BodyByteIsStored : Prop :=
  ∀ (s : State) (b : Byte), s.frm.st = .body → s.frm.cnt.toNat + 1 < s.frm.len.toNat → s.frm.len.toNat ≤ 4106 →
    ∃ t, exec (.frmPush [b]) s = .next t ∧ t.frm.st = .body ∧ t.frm.cnt.toNat = s.frm.cnt.toNat + 1 ∧
      t.frm.len = s.frm.len ∧ t.frm.cause = s.frm.cause ∧
      (∀ a, t.frm.byteAt a = if a = s.frm.cnt.toNat then b else s.frm.byteAt a) ∧
      t.inbox = s.inbox ∧ t.replies = s.replies ++ [.okEvents []]

/-- Rule R126: the last byte of a frame: the packet DECODE gives for the collected bytes is emitted, and the framer is back
in HDR with FRM_CNT and FRM_LEN 0; with the frame. Its size is FRM_LEN - 4 wherever the collected size field says so, which
is rule R29 (b). -/
def Obligations.LastByteEmitsThePacket : Prop :=
  ∀ (s : State) (b : Byte), s.frm.st = .body → s.frm.cnt.toNat + 1 = s.frm.len.toNat → 14 ≤ s.frm.len.toNat →
    s.frm.len.toNat ≤ 4106 →
    ∃ t p f, exec (.frmPush [b]) s = .next t ∧ t.frm.st = .hdr ∧ t.frm.cnt = 0 ∧ t.frm.len = 0 ∧
      t.frm.cause = s.frm.cause ∧ t.inbox = s.inbox ∧
      (∀ a, t.frm.byteAt a = if a = s.frm.cnt.toNat then b else s.frm.byteAt a) ∧
      t.replies = s.replies ++ [.okEvents [.packet p]] ∧
      f.length = s.frm.len.toNat ∧ (∀ k, k < f.length → f[k]? = some (t.frm.byteAt k)) ∧
      exec (.decode f) s = .next (s.reply (.okPacket p)) ∧ p.body.length = s.frm.len.toNat - 14 ∧
      (declaredSize s.frm + 4 = s.frm.len.toNat → p.size.toNat = s.frm.len.toNat - 4)

/-- Rule R128: FRM_EOS in every state, by its code, which is a push of no bytes (rule R70); with the frame. -/
def Obligations.EndOfStreamCloses : Prop :=
  ∀ s : State,
    (∀ (vsel : BitVec 2) (size : U32) (id type : I32), decode (.op 3 vsel size id type []) = .ok .frmEos) ∧
    exec (.frmPush []) s = exec .frmEos s ∧
    (s.frm.st = .hdr ∨ s.frm.st = .body →
      ∃ t, exec .frmEos s = .next t ∧ t.frm.st = .closed ∧ t.frm.cnt = 0 ∧ t.frm.len = 0 ∧
        t.frm.cause = s.frm.cause ∧ t.frm.buf = s.frm.buf ∧ t.inbox = s.inbox ∧
        t.replies = s.replies ++ [.okEvents [.closed s.frm.cnt.toNat]]) ∧
    (s.frm.st = .closed → exec .frmEos s = .next (s.reply (.refused .closed))) ∧
    (s.frm.st = .fault → exec .frmEos s = .next (s.reply (.refused .faulted)))

/-- Rule R127: in CLOSED and FAULT every operation of FRM is refused, with its code, and nothing but the reply changes; and
no step but reset's changes the framer there. -/
def Obligations.ClosedAndFaultRefuse : Prop :=
  (∀ (s : State) (i : Instr), isFrm i = true →
    (s.frm.st = .closed → exec i s = .next (s.reply (.refused .closed))) ∧
    (s.frm.st = .fault → exec i s = .next (s.reply (.refused .faulted)))) ∧
  (∀ (s t : State), s.frm.st = .closed ∨ s.frm.st = .fault → s.inbox.head? ≠ some .reset → step s = .next t →
    t.frm = s.frm) ∧
  (Reply.refused .closed).code.map ResultCode.bits = some 6 ∧
  (Reply.refused .faulted).code.map ResultCode.bits = some 7

/-- Rule R129: chunk boundaries are not observable in the state or in the events, from any framer state. The outcomes differ
where the first chunk ends in FAULT: the second push is refused, and in the joined push its bytes are dropped. -/
def Obligations.ChunkBoundariesAreNotObservable : Prop :=
  ∀ (s s₁ s₂ : State) (c₁ c₂ : Bytes), c₁ ≠ [] → c₂ ≠ [] →
    exec (.frmPush c₁) s = .next s₁ → exec (.frmPush c₂) s₁ = .next s₂ →
    ∃ t, exec (.frmPush (c₁ ++ c₂)) s = .next t ∧ t.frm = s₂.frm ∧ eventsOf t.replies = eventsOf s₂.replies ∧
      (s₁.frm.st = .fault → t = s₁ ∧ s₂ = s₁.reply (.refused .faulted))

/-- Rule R131: a fault inside a chunk: the bytes after it have no effect at all. -/
def Obligations.BytesAfterAFaultAreDropped : Prop :=
  ∀ (s t : State) (c₁ c₂ : Bytes), c₁ ≠ [] → s.frm.st ≠ .fault →
    exec (.frmPush c₁) s = .next t → t.frm.st = .fault → exec (.frmPush (c₁ ++ c₂)) s = .next t

/-- Rules R70 and R122: operation code 3 with a chunk that has a byte is a push, whatever the other operand lines hold. A
push from HDR or BODY, under rule R29, answers a next state; its events are packets, and then, exactly if it ends in FAULT,
the one fault event of the code in FRM_CAUSE. -/
def Obligations.PushCompletesWithItsEvents : Prop :=
  ∀ chunk : Bytes, chunk ≠ [] →
    (∀ (vsel : BitVec 2) (size : U32) (id type : I32), decode (.op 3 vsel size id type chunk) = .ok (.frmPush chunk)) ∧
    (∀ s : State, FrmInv s.frm → s.frm.st = .hdr ∨ s.frm.st = .body →
      ∃ t, ∃ ps : List Packet, exec (.frmPush chunk) s = .next t ∧ t.inbox = s.inbox ∧ t.frm.st ≠ .closed ∧
        (t.frm.st ≠ .fault → t.replies = s.replies ++ [.okEvents (ps.map .packet)]) ∧
        (t.frm.st = .fault → ∃ (f : FaultName) (size : U32), f.code = t.frm.cause ∧
          t.replies = s.replies ++ [.frmFault t.frm.cause (ps.map .packet ++ [.fault f size])]))

/-- The frame of a push of any length on FRM_BUF (rule R121): the byte at an index at which no byte of the chunk is stored
reads as before. Where a byte is stored is FRM_CNT of the framer after the bytes before it, unless that framer is in
FAULT. -/
def Obligations.PushStoresOnlyAtTheCount : Prop :=
  ∀ (s t : State) (chunk : Bytes) (a : Nat), exec (.frmPush chunk) s = .next t →
    (∀ (k : Nat) (fr : Framer) (es : List Event), k < chunk.length → pushBytes s.frm (chunk.take k) = .ok (fr, es) →
      fr.st ≠ .fault → fr.cnt.toNat ≠ a) →
    t.frm.byteAt a = s.frm.byteAt a

/-- Rule R130: the framed path agrees with DECODE on a stream of frames, in any chunking. The run is of the machine's step
on one push per chunk, from a framer that stands at a frame boundary. -/
def Obligations.FramedPathAgreesWithDecode : Prop :=
  ∀ (s : State) (frames chunks : List Bytes), s.frm.st = .hdr → s.frm.cnt = 0 →
    (∀ f ∈ frames, 4 ≤ f.length ∧ (u32le (slice f 0 4)).toNat = f.length - 4) →
    (∀ c ∈ chunks, c ≠ []) → chunks.flatten = frames.flatten →
    s.inbox = chunks.map (fun c => .transfer (encode (.frmPush c))) →
    ∃ t, Host.Core.run Sys2Proof.core chunks.length s = .next t ∧
      eventsOf t.replies = eventsOf s.replies ++ decodedEvents frames

/-- Rule R29 as an invariant of every step, from every state that meets it. -/
def Obligations.EveryStepKeepsTheInvariant : Prop :=
  ∀ s t : State, FrmInv s.frm → step s = .next t → FrmInv t.frm

/-- Rule R29: reset establishes the invariant, by its clause (a). -/
def Obligations.ResetMeetsTheInvariant : Prop := InHdr State.reset.frm ∧ FrmInv State.reset.frm

/-- Rules R121, R126 and R188: under the invariant every step answers a next state, unless its input is a console line that
is no request (rule R146). -/
def Obligations.NoStepStopsUnderTheInvariant : Prop :=
  ∀ s : State, FrmInv s.frm →
    (∃ t, step s = .next t) ∨
    (∃ line rest e, s.inbox = .transfer (.console line) :: rest ∧ decode (.console line) = .error e ∧
      step s = .refused (rejectRefusal e))

/-- Rule R27: FRM_CAUSE, once set, is kept by every step but reset. -/
def Obligations.CauseIsKeptUntilReset : Prop :=
  ∀ s t : State, FrmInv s.frm → s.frm.cause ≠ .ok → s.inbox.head? ≠ some .reset → step s = .next t →
    t.frm.cause = s.frm.cause

/-! ## Agents -/

/-- Rules R12, R20, R50 and R153: for an instruction of TX, of DEC or of the command interface there is one reply, the same
in every state, and nothing but the reply changes. -/
def Obligations.PureInstructionsUseOperandsAlone : Prop :=
  ∀ i : Instr, isPure i = true → ∃ r : Reply, ∀ s : State, exec i s = .next (s.reply r)

/-- Rule R12: a step of TX or DEC and a step of FRM give the same framer and the same two replies in either order. -/
def Obligations.AgentsInterleaveFreely : Prop :=
  ∀ (i j : Instr) (s a b c d : State), isPure i = true → isFrm j = true →
    exec i s = .next a → exec j a = .next b → exec j s = .next c → exec i c = .next d →
    b.frm = d.frm ∧ ∃ x y, b.replies = s.replies ++ [x, y] ∧ d.replies = s.replies ++ [y, x]

/-! ## The other rows of the table -/

/-- The FRAME row on the direct path (rules R61, R69, R110; assumption 6), and that it is the same on the framed path as a
push of the frame's bytes. -/
def Obligations.FrameRowOnBothPaths : Prop :=
  (∀ (f : Frame) (s : State),
    (f.body.length ≤ 4092 → exec (.frame .direct f) s =
      .next (s.reply (.okPacket { size := f.size, id := f.id, type := f.type, body := f.body }))) ∧
    (4093 ≤ f.body.length → exec (.frame .direct f) s =
      .next (s.reply (.fault { fault := .invalidLength, len := 14 + f.body.length })))) ∧
  (∀ (f : Frame) (s : State), exec (.frame .framed f) s = exec (.frmPush (frameBytes f)) s)

/-- The FRAME row on the framed path (rules R69, R126, R130; assumption 6): a frame whose size field is right, pushed at a
frame boundary, is emitted and leaves the framer at a boundary. -/
def Obligations.FrameRowFramedEmitsThePacket : Prop :=
  ∀ (f : Frame) (s : State), s.frm.st = .hdr → s.frm.cnt = 0 → f.body.length ≤ 4092 →
    f.size.toNat = f.body.length + 10 →
    ∃ t, exec (.frame .framed f) s = .next t ∧ t.frm.st = .hdr ∧ t.frm.cnt = 0 ∧ t.frm.len = 0 ∧
      t.frm.cause = s.frm.cause ∧ t.inbox = s.inbox ∧
      (∀ a, 14 + f.body.length ≤ a → t.frm.byteAt a = s.frm.byteAt a) ∧
      t.replies = s.replies ++
        [.okEvents [.packet { size := f.size, id := f.id, type := f.type, body := f.body }]]

/-- The TYPE rows of the four variants (rules R66, R71, R90; assumption 5): the type field each packet carries. -/
def Obligations.VariantRowsConstruct : Prop :=
  ∀ (id : I32) (body : Bytes) (s : State),
    (body.length ≤ 4096 →
      exec (.authRequest id body) s = .next (s.reply (.okPacket
        { size := BitVec.ofNat 32 (body.length + 10), id := id, type := 3, body := body })) ∧
      exec (.authResponse id body) s = .next (s.reply (.okPacket
        { size := BitVec.ofNat 32 (body.length + 10), id := id, type := 2, body := body })) ∧
      exec (.execCommand id body) s = .next (s.reply (.okPacket
        { size := BitVec.ofNat 32 (body.length + 10), id := id, type := 2, body := body })) ∧
      exec (.responseValue id body) s = .next (s.reply (.okPacket
        { size := BitVec.ofNat 32 (body.length + 10), id := id, type := 0, body := body }))) ∧
    (4097 ≤ body.length → ∀ i ∈ [Instr.authRequest id body, .authResponse id body, .execCommand id body,
        .responseValue id body],
      exec i s = .next (s.reply (.fault { fault := .bodyTooLarge, len := body.length })))

/-- The TYPE_OTHER row (rules R64, R69; assumption 5): on the transmit side the frame of ENCODE, written out byte by byte;
on the receive side the type is stored raw. -/
def Obligations.OtherTypesAreCarriedRaw : Prop :=
  ∀ (type id : I32) (body : Bytes) (s : State),
    (body.length ≤ 4096 → ∃ f : Bytes, exec (.typeOther .transmit type id body) s = .next (s.reply (.okFrame f)) ∧
      (∀ size : U32, exec (.encode { size := size, id := id, type := type, body := body }) s =
        .next (s.reply (.okFrame f))) ∧
      f = [BitVec.ofNat 8 (body.length + 10), BitVec.ofNat 8 ((body.length + 10) / 256), 0, 0]
        ++ [id.extractLsb' 0 8, id.extractLsb' 8 8, id.extractLsb' 16 8, id.extractLsb' 24 8]
        ++ [type.extractLsb' 0 8, type.extractLsb' 8 8, type.extractLsb' 16 8, type.extractLsb' 24 8]
        ++ body ++ [0, 0]) ∧
    (4097 ≤ body.length → exec (.typeOther .transmit type id body) s = .next (s.reply (.refused .notWF))) ∧
    (body.length ≤ 4092 → exec (.typeOther .receive type id body) s = .next (s.reply (.okPacket
      { size := BitVec.ofNat 32 (body.length + 10), id := id, type := type, body := body }))) ∧
    (4093 ≤ body.length → exec (.typeOther .receive type id body) s =
      .next (s.reply (.fault { fault := .invalidLength, len := 14 + body.length })))

/-- The RESULT rows (rules R27, R30, R141; assumption 7), with their numbers: the read completes in every state, returns the
codes, and changes nothing else. The last clause is the numbering of rule R141. -/
def Obligations.ResultRowsReadTheCodes : Prop :=
  (∀ (s : State) (i : Instr) (n : BitVec 3),
    (i, n) ∈ [(Instr.resultOk, 0#3), (.resultBodyTooLarge, 1), (.resultInvalidLength, 2), (.resultShortFrame, 3),
      (.resultBadOp, 4), (.resultNotWF, 5), (.resultClosed, 6), (.resultFaulted, 7)] →
    exec i s = .next (s.reply (.resultRead ((lastCode s.replies).map ResultCode.bits) s.frm.cause.bits
      (decide ((lastCode s.replies).map ResultCode.bits = some n)) (decide (s.frm.cause.bits = n))))) ∧
  (ResultCode.ok.bits = 0 ∧ ResultCode.bodyTooLarge.bits = 1 ∧ ResultCode.invalidLength.bits = 2 ∧
    ResultCode.shortFrame.bits = 3 ∧ ResultCode.badOp.bits = 4 ∧ ResultCode.notWF.bits = 5 ∧
    ResultCode.closed.bits = 6 ∧ ResultCode.faulted.bits = 7)

/-- Rule R141 with assumption 7: the code a RESULT row reads is that of the latest outcome, reads in between not counting. -/
def Obligations.LatestCodeIsTheLastOutcomes : Prop :=
  (∀ (rs : List Reply) (r : Reply) (c : ResultCode), r.code = some c → lastCode (rs ++ [r]) = some c) ∧
  (∀ (rs : List Reply) (r : Reply), r.code = none → lastCode (rs ++ [r]) = lastCode rs)

/-- The STATE rows (rules R24, R30; assumption 7). -/
def Obligations.StateRowsReadFrmSt : Prop :=
  ∀ (s : State) (i : Instr) (n : BitVec 2),
    (i, n) ∈ [(Instr.frmStHdr, 0#2), (.frmStBody, 1), (.frmStClosed, 2), (.frmStFault, 3)] →
    exec i s = .next (s.reply (.stateRead s.frm.st.bits (decide (s.frm.st.bits = n)))) ∧
    (s.frm.st = .hdr → s.frm.st.bits = 0) ∧ (s.frm.st = .body → s.frm.st.bits = 1) ∧
    (s.frm.st = .closed → s.frm.st.bits = 2) ∧ (s.frm.st = .fault → s.frm.st.bits = 3)

/-- Rules R80 and R81 (assumption 8): a console line is ENCODE of CONSTRUCT of the variant its name selects. -/
def Obligations.ConsoleLineIsEncodeOfConstruct : Prop :=
  ∀ (id : I32) (body : Bytes) (s : State) (i : Instr) (v : Variant),
    (i, v) ∈ [(Instr.serverDataAuth id body, Variant.authRequest), (.serverDataAuthResponse id body, .authResponse),
      (.serverDataExecCommand id body, .execCommand), (.serverDataResponseValue id body, .responseValue)] →
    (body.length ≤ 4096 → ∃ p f, exec (.construct v id body) s = .next (s.reply (.okPacket p)) ∧
      exec (.encode p) s = .next (s.reply (.okFrame f)) ∧ exec i s = .next (s.reply (.okFrame f))) ∧
    (4097 ≤ body.length → exec i s = .next (s.reply (.fault { fault := .bodyTooLarge, len := body.length })))

/-! ## Encoding -/

/-- Words written out from the tables of rules R24, R61, R66, R70, R71 and R141, and one console line (rule R80) with each of
the four names of rule R81, `1 <TYPE_NAME> x`, one ASCII byte per character (assumption 8). -/
def Obligations.WordsOfTheTablesDecode : Prop :=
  decode (.op 0b000#3 0b10#2 0 1 0 [0x61]) = .ok (.construct .execCommand 1 [0x61]) ∧
  decode (.op 0b001#3 0 0x10 1 2 [0x61]) = .ok (.encode { size := 0x10, id := 1, type := 2, body := [0x61] }) ∧
  decode (.op 0b010#3 0 0 0 0 [0x0A]) = .ok (.decode [0x0A]) ∧
  decode (.op 0b011#3 0 0 0 0 [0x0A]) = .ok (.frmPush [0x0A]) ∧
  decode (.op 0b011#3 0 0 0 0 []) = .ok .frmEos ∧
  decode (.op 0b101#3 0 0 0 0 []) = .ok .reservedOp5 ∧
  decode (.wire .framed [0x0A, 0, 0, 0, 7, 0, 0, 0, 2, 0, 0, 0, 0xAB, 0xCD]) =
    .ok (.frame .framed { size := 10, id := 7, type := 2, body := [], pad0 := 0xAB, pad1 := 0xCD }) ∧
  decode (.type .transmit 0x00000003 0b00#2 1 []) = .ok (.authRequest 1 []) ∧
  decode (.type .transmit 0x00000002 0b01#2 1 []) = .ok (.authResponse 1 []) ∧
  decode (.type .transmit 0x00000002 0b10#2 1 []) = .ok (.execCommand 1 []) ∧
  decode (.type .transmit 0x00000000 0b11#2 1 []) = .ok (.responseValue 1 []) ∧
  decode (.type .receive 0xFFFFFFFF 0 1 []) = .ok (.typeOther .receive 0xFFFFFFFF 1 []) ∧
  decode (.result 0b000#3) = .ok .resultOk ∧ decode (.result 0b001#3) = .ok .resultBodyTooLarge ∧
  decode (.result 0b010#3) = .ok .resultInvalidLength ∧ decode (.result 0b011#3) = .ok .resultShortFrame ∧
  decode (.result 0b100#3) = .ok .resultBadOp ∧ decode (.result 0b101#3) = .ok .resultNotWF ∧
  decode (.result 0b110#3) = .ok .resultClosed ∧ decode (.result 0b111#3) = .ok .resultFaulted ∧
  decode (.state 0b00#2) = .ok .frmStHdr ∧ decode (.state 0b01#2) = .ok .frmStBody ∧
  decode (.state 0b10#2) = .ok .frmStClosed ∧ decode (.state 0b11#2) = .ok .frmStFault ∧
  decode (.console [
    0x31, 0x20, 0x53, 0x45, 0x52, 0x56, 0x45, 0x52, 0x5F, 0x44, 0x41, 0x54, 0x41, 0x5F, 0x41, 0x55, 0x54, 0x48,
    0x20, 0x78]) = .ok (.serverDataAuth 1 [0x78]) ∧
  decode (.console [
    0x31, 0x20, 0x53, 0x45, 0x52, 0x56, 0x45, 0x52, 0x5F, 0x44, 0x41, 0x54, 0x41, 0x5F, 0x41, 0x55, 0x54, 0x48,
    0x5F, 0x52, 0x45, 0x53, 0x50, 0x4F, 0x4E, 0x53, 0x45, 0x20, 0x78]) = .ok (.serverDataAuthResponse 1 [0x78]) ∧
  decode (.console [
    0x31, 0x20, 0x53, 0x45, 0x52, 0x56, 0x45, 0x52, 0x5F, 0x44, 0x41, 0x54, 0x41, 0x5F, 0x45, 0x58, 0x45, 0x43,
    0x5F, 0x43, 0x4F, 0x4D, 0x4D, 0x41, 0x4E, 0x44, 0x20, 0x78]) = .ok (.serverDataExecCommand 1 [0x78]) ∧
  decode (.console [
    0x31, 0x20, 0x53, 0x45, 0x52, 0x56, 0x45, 0x52, 0x5F, 0x44, 0x41, 0x54, 0x41, 0x5F, 0x52, 0x45, 0x53, 0x50,
    0x4F, 0x4E, 0x53, 0x45, 0x5F, 0x56, 0x41, 0x4C, 0x55, 0x45, 0x20, 0x78]) = .ok (.serverDataResponseValue 1 [0x78])

/-- DECODE AND ENCODE AGREE, for every row but the console's: no operand bit is dropped. -/
def Obligations.DecodeOfEncodeIsTheInstruction : Prop :=
  ∀ i : Instr, i.wf = true → i.format ≠ .console → decode (encode i) = .ok i

/-- DECODE AND ENCODE AGREE on console lines (rules R80 to R83): the text of a request is read back as the request. -/
def Obligations.ConsoleTextIsReadBack : Prop :=
  ∀ i : Instr, i.wf = true → i.format = .console → decode (encode i) = .ok i

/-- Rule R61: a frame read off the wire keeps every byte, the pad included. -/
def Obligations.WireBytesAreKept : Prop :=
  ∀ (path : RxPath) (b : Bytes), 14 ≤ b.length →
    ∃ f : Frame, decode (.wire path b) = .ok (.frame path f) ∧ encode (.frame path f) = .wire path b

/-- Rules R68, R110 and R128: a read of fewer than 14 bytes is no frame, and is the operand of DECODE or of FRM as it
stands; an empty read on the framed path is the end of the stream. -/
def Obligations.ShortReadsAreOperands : Prop :=
  ∀ b : Bytes, b.length ≤ 13 →
    decode (.wire .direct b) = .ok (.decode b) ∧
    (b ≠ [] → decode (.wire .framed b) = .ok (.frmPush b)) ∧ (b = [] → decode (.wire .framed b) = .ok .frmEos)

/-! ## Result codes of the outcomes -/

/-- Rule R141: the number that comes with each outcome; a framer fault has that of FRM_CAUSE, and a read has none. -/
def Obligations.OutcomesCarryTheirCodes : Prop :=
  (∀ p, (Reply.okPacket p).code.map ResultCode.bits = some 0) ∧
  (∀ f, (Reply.okFrame f).code.map ResultCode.bits = some 0) ∧
  (∀ es, (Reply.okEvents es).code.map ResultCode.bits = some 0) ∧
  (∀ n, (Reply.fault { fault := .bodyTooLarge, len := n }).code.map ResultCode.bits = some 1) ∧
  (∀ n, (Reply.fault { fault := .invalidLength, len := n }).code.map ResultCode.bits = some 2) ∧
  (∀ n, (Reply.fault { fault := .shortFrame, len := n }).code.map ResultCode.bits = some 3) ∧
  (∀ cause es, (Reply.frmFault cause es).code.map ResultCode.bits = some cause.bits) ∧
  FaultName.invalidLength.code.bits = 2 ∧ FaultName.shortFrame.code.bits = 3 ∧
  (Reply.refused .badOp).code.map ResultCode.bits = some 4 ∧ (Reply.refused .notWF).code.map ResultCode.bits = some 5 ∧
  (Reply.refused .closed).code.map ResultCode.bits = some 6 ∧
  (Reply.refused .faulted).code.map ResultCode.bits = some 7 ∧
  (∀ st cnt len cause, (Reply.status st cnt len cause).code = none) ∧
  (∀ st b, (Reply.stateRead st b).code = none) ∧ ∀ last cause b c, (Reply.resultRead last cause b c).code = none
end

