-- ==== Sys2Proof/Laws/State.lean ====
section
/-! SUPPORT. One lemma per field per update of State and Framer, and the numbering of the named codes. -/

namespace Sys2Proof.Machine

@[simp] theorem State.reply_frm (s : State) (r : Reply) : (s.reply r).frm = s.frm := rfl
@[simp] theorem State.reply_inbox (s : State) (r : Reply) : (s.reply r).inbox = s.inbox := rfl
@[simp] theorem State.reply_replies (s : State) (r : Reply) : (s.reply r).replies = s.replies ++ [r] := rfl

@[simp] theorem State.pop_frm (s : State) : s.pop.frm = s.frm := rfl
@[simp] theorem State.pop_inbox (s : State) : s.pop.inbox = s.inbox.tail := rfl
@[simp] theorem State.pop_replies (s : State) : s.pop.replies = s.replies := rfl

@[simp] theorem State.resetFramer_frm (s : State) : s.resetFramer.frm = s.frm.toReset := rfl
@[simp] theorem State.resetFramer_inbox (s : State) : s.resetFramer.inbox = s.inbox := rfl
@[simp] theorem State.resetFramer_replies (s : State) : s.resetFramer.replies = s.replies := rfl

@[simp] theorem State.readStatus_frm (s : State) : s.readStatus.frm = s.frm := rfl
@[simp] theorem State.readStatus_inbox (s : State) : s.readStatus.inbox = s.inbox := rfl
@[simp] theorem State.readStatus_replies (s : State) : s.readStatus.replies =
    s.replies ++ [.status s.frm.st.bits s.frm.cnt s.frm.len s.frm.cause.bits] := rfl

@[simp] theorem State.withFetchWord_frm (s : State) (nbits w : Nat) : (s.withFetchWord nbits w).frm = s.frm := rfl
@[simp] theorem State.withFetchWord_inbox (s : State) (nbits w : Nat) :
    (s.withFetchWord nbits w).inbox = .transfer (tableTransfer nbits w) :: s.inbox := rfl
@[simp] theorem State.withFetchWord_replies (s : State) (nbits w : Nat) :
    (s.withFetchWord nbits w).replies = s.replies := rfl

@[simp] theorem Framer.enterFault_st (fr : Framer) (f : FaultName) : (fr.enterFault f).st = .fault := rfl
@[simp] theorem Framer.enterFault_cause (fr : Framer) (f : FaultName) : (fr.enterFault f).cause = f.code := rfl
@[simp] theorem Framer.enterFault_cnt (fr : Framer) (f : FaultName) : (fr.enterFault f).cnt = fr.cnt := rfl
@[simp] theorem Framer.enterFault_len (fr : Framer) (f : FaultName) : (fr.enterFault f).len = fr.len := rfl
@[simp] theorem Framer.enterFault_buf (fr : Framer) (f : FaultName) : (fr.enterFault f).buf = fr.buf := rfl
@[simp] theorem Framer.enterFault_epoch (fr : Framer) (f : FaultName) : (fr.enterFault f).epoch = fr.epoch := rfl

@[simp] theorem Framer.toReset_st (fr : Framer) : fr.toReset.st = .hdr := rfl
@[simp] theorem Framer.toReset_cnt (fr : Framer) : fr.toReset.cnt = 0 := rfl
@[simp] theorem Framer.toReset_len (fr : Framer) : fr.toReset.len = 0 := rfl
@[simp] theorem Framer.toReset_cause (fr : Framer) : fr.toReset.cause = .ok := rfl
@[simp] theorem Framer.toReset_buf (fr : Framer) : fr.toReset.buf = [] := rfl
@[simp] theorem Framer.toReset_epoch (fr : Framer) : fr.toReset.epoch = fr.epoch + 1 := rfl

/-- The 3-bit numbering of rule R141 loses nothing: naming the codes is the same as keeping the bits. -/
theorem ResultCode.bits_injective : Function.Injective ResultCode.bits := by
  intro a b h; revert h; cases a <;> cases b <;> decide

/-- The 2-bit numbering of rule R24 loses nothing. -/
theorem FrmSt.bits_injective : Function.Injective FrmSt.bits := by
  intro a b h; revert h; cases a <;> cases b <;> decide

end Sys2Proof.Machine
end

