-- ==== Sys2Proof/Laws/Codec.lean ====
section
/-! SUPPORT. The small lemmas of the codec's functions (spec/40_packet_construct.md, 41_encode.md, 42_decode.md). -/

namespace Sys2Proof.Machine

@[simp] theorem le32_length (v : U32) : (le32 v).length = 4 := rfl
@[simp] theorem le32s_length (v : I32) : (le32s v).length = 4 := rfl

/-- Rule R61: a frame is 14 bytes longer than its body. -/
theorem frameBytes_length (f : Frame) : (frameBytes f).length = 14 + f.body.length := by
  simp only [frameBytes, List.length_append, le32_length, le32s_length, List.length_cons, List.length_nil]
  omega

theorem frameOfPacket_length (p : Packet) : (frameOfPacket p).length = 14 + p.body.length := frameBytes_length _

/-- The admission test of rule R110, by ranges. -/
theorem lengthFault_none_iff (n : Nat) : lengthFault n = none ↔ 14 ≤ n ∧ n ≤ 4106 := by
  unfold lengthFault
  simp only [Config.minFrameBytes, Config.maxFrameBytes, Config.frameOverhead]
  split
  · simp; omega
  · split
    · simp; omega
    · simp; omega

theorem lengthFault_invalidLength_iff (n : Nat) : lengthFault n = some .invalidLength ↔ n ≤ 9 ∨ 4107 ≤ n := by
  unfold lengthFault
  simp only [Config.minFrameBytes, Config.maxFrameBytes, Config.frameOverhead]
  split
  · simp; omega
  · split
    · simp; omega
    · simp; omega

theorem lengthFault_shortFrame_iff (n : Nat) : lengthFault n = some .shortFrame ↔ 10 ≤ n ∧ n ≤ 13 := by
  unfold lengthFault
  simp only [Config.minFrameBytes, Config.maxFrameBytes, Config.frameOverhead]
  split
  · simp; omega
  · split
    · simp; omega
    · simp; omega

theorem lengthFault_ne_bodyTooLarge (n : Nat) : lengthFault n ≠ some .bodyTooLarge := by
  unfold lengthFault
  split
  · simp
  · split <;> simp

theorem decodeBuffer_ok {b : Bytes} (h1 : 14 ≤ b.length) (h2 : b.length ≤ 4106) :
    decodeBuffer b = .ok (packetOfBytes b) := by
  simp [decodeBuffer, (lengthFault_none_iff b.length).2 ⟨h1, h2⟩]

theorem decodeBuffer_error {b : Bytes} {f : FaultName} (h : lengthFault b.length = some f) :
    decodeBuffer b = .error { fault := f, len := b.length } := by
  simp [decodeBuffer, h]

theorem constructPacket_ok {v : Variant} {id : I32} {body : Bytes} (h : body.length ≤ 4096) :
    constructPacket v id body = .ok (packetOf (typeField v) id body) := by
  unfold constructPacket
  simp only [Config.minFrameBytes, Config.maxFrameBytes]
  rw [if_neg (by omega)]

theorem constructPacket_error {v : Variant} {id : I32} {body : Bytes} (h : 4097 ≤ body.length) :
    constructPacket v id body = .error { fault := .bodyTooLarge, len := body.length } := by
  unfold constructPacket
  simp only [Config.minFrameBytes, Config.maxFrameBytes]
  rw [if_pos (by omega)]

theorem encodePacket_ok {p : Packet} (h : p.body.length ≤ 4096) : encodePacket p = .ok (frameOfPacket p) :=
  if_pos h

theorem encodePacket_error {p : Packet} (h : 4097 ≤ p.body.length) : encodePacket p = .error .notWF :=
  if_neg (show ¬p.body.length ≤ 4096 by omega)

theorem packetOfBytes_body_length {b : Bytes} (h : 14 ≤ b.length) :
    (packetOfBytes b).body.length = b.length - 14 := by
  simp only [packetOfBytes, slice, Config.hdrBytes, Config.padBytes, List.length_take, List.length_drop]
  omega

end Sys2Proof.Machine
end

