-- ==== Sys2Proof/Laws/Memory.lean ====
section
/-! SUPPORT. FRM_BUF: read after write, and the canonical form. -/

namespace Sys2Proof.Machine

theorem Memory.read?_insert (m : Memory) (a : Nat) (b : Byte) (x : Nat) :
    Memory.read? (Memory.insert m a b) x = if x = a then some b else Memory.read? m x := by
  induction m with
  | nil => simp only [Memory.insert, Memory.read?, eq_comm]
  | cons c m ih =>
    obtain ⟨k, v⟩ := c
    simp only [Memory.insert]
    by_cases h1 : a < k
    · by_cases h : x = a
      · subst h; simp [h1, Memory.read?]
      · simp [h1, Memory.read?, h, Ne.symm h]
    · by_cases h2 : a = k
      · subst h2
        by_cases h : x = a
        · subst h; simp [Memory.read?]
        · simp [Memory.read?, h, Ne.symm h]
      · simp only [h1, h2, if_false, Memory.read?, ih]
        by_cases h3 : k = x
        · subst h3; simp [Ne.symm h2]
        · simp [h3]

theorem Memory.wfFrom_insert (m : Memory) (lo a : Nat) (b : Byte) (hlo : lo ≤ a) (ha : a < Config.frmBufCap)
    (h : Memory.wfFrom lo m = true) : Memory.wfFrom lo (Memory.insert m a b) = true := by
  induction m generalizing lo with
  | nil => simp [Memory.insert, Memory.wfFrom, hlo, ha]
  | cons c m ih =>
    obtain ⟨k, v⟩ := c
    simp only [Memory.wfFrom, Bool.and_eq_true, decide_eq_true_eq] at h
    obtain ⟨⟨h1, h2⟩, h3⟩ := h
    simp only [Memory.insert]
    by_cases hk : a < k
    · simp only [hk, if_true, Memory.wfFrom, Bool.and_eq_true, decide_eq_true_eq]
      exact ⟨⟨hlo, ha⟩, ⟨hk, h2⟩, h3⟩
    · by_cases he : a = k
      · subst he
        simp [Memory.wfFrom, hlo, ha, h3]
      · simp only [hk, he, if_false, Memory.wfFrom, Bool.and_eq_true, decide_eq_true_eq]
        exact ⟨⟨h1, h2⟩, ih (k + 1) (by omega) h3⟩

/-- What one write to FRM_BUF does: it answers exactly for the indices rule R28 gives the buffer, the byte reads back, every
other byte reads as before, and the canonical form is kept. -/
theorem Memory.write_spec {m m' : Memory} {a : Nat} {b : Byte} (h : Memory.write m a b = .ok m') :
    a < Config.frmBufCap ∧ (∀ x, Memory.read? m' x = if x = a then some b else Memory.read? m x) ∧
      (Memory.wf m = true → Memory.wf m' = true) := by
  unfold Memory.write at h
  split at h
  · next ha =>
    cases h
    exact ⟨ha, Memory.read?_insert m a b, Memory.wfFrom_insert m 0 a b (Nat.zero_le a) ha⟩
  · cases h

theorem Memory.write_ok {m : Memory} {a : Nat} {b : Byte} (ha : a < Config.frmBufCap) :
    Memory.write m a b = .ok (Memory.insert m a b) := by simp [Memory.write, ha]

theorem Memory.write_error {m : Memory} {a : Nat} {b : Byte} {e : Fault} (h : Memory.write m a b = .error e) :
    Config.frmBufCap ≤ a ∧ e = .frmBufAddress := by
  unfold Memory.write at h
  split at h
  · cases h
  · next ha => cases h; exact ⟨Nat.le_of_not_lt ha, rfl⟩

/-- Two canonical buffers that read alike are equal data. -/
theorem Memory.read?_of_lt {lo : Nat} {m : Memory} (h : Memory.wfFrom lo m = true) {a : Nat} (ha : a < lo) :
    Memory.read? m a = none := by
  induction m generalizing lo with
  | nil => rfl
  | cons c m ih =>
    obtain ⟨k, v⟩ := c
    simp only [Memory.wfFrom, Bool.and_eq_true, decide_eq_true_eq] at h
    simp only [Memory.read?]
    rw [if_neg (by omega)]
    exact ih h.2 (by omega)

theorem Memory.ext {lo : Nat} {m m' : Memory} (h : Memory.wfFrom lo m = true) (h' : Memory.wfFrom lo m' = true)
    (he : ∀ a, Memory.read? m a = Memory.read? m' a) : m = m' := by
  induction m generalizing lo m' with
  | nil =>
    cases m' with
    | nil => rfl
    | cons c m' => have := he c.1; simp [Memory.read?] at this
  | cons c m ih =>
    obtain ⟨k, v⟩ := c
    cases m' with
    | nil => have := he k; simp [Memory.read?] at this
    | cons c' m' =>
      obtain ⟨k', v'⟩ := c'
      simp only [Memory.wfFrom, Bool.and_eq_true, decide_eq_true_eq] at h h'
      have hk : k = k' := by
        by_contra hne
        rcases Nat.lt_or_gt_of_ne hne with hlt | hlt
        · have := he k
          simp only [Memory.read?, if_true] at this
          rw [if_neg (by omega), Memory.read?_of_lt h'.2 (by omega)] at this
          cases this
        · have := he k'
          simp only [Memory.read?, if_true] at this
          rw [if_neg (by omega), Memory.read?_of_lt h.2 (by omega)] at this
          cases this
      subst hk
      have hv := he k
      simp only [Memory.read?, if_true, Option.some.injEq] at hv
      subst hv
      congr 1
      refine ih h.2 h'.2 fun a => ?_
      by_cases ha : a < k + 1
      · rw [Memory.read?_of_lt h.2 ha, Memory.read?_of_lt h'.2 ha]
      · have := he a
        simpa [Memory.read?, show k ≠ a by omega] using this

theorem reset_buf_wf : Memory.wf State.reset.frm.buf = true := rfl

theorem Framer.byteAt_of_read? {fr : Framer} {a : Nat} {b : Byte} (h : Memory.read? fr.buf a = some b) :
    fr.byteAt a = b := by simp [Framer.byteAt, h]

/-- The byte view of a write. -/
theorem Framer.byteAt_write {fr fr' : Framer} {a : Nat} {b : Byte} {m : Memory} (h : Memory.write fr.buf a b = .ok m)
    (hb : fr'.buf = m) (he : fr'.epoch = fr.epoch) (x : Nat) :
    fr'.byteAt x = if x = a then b else fr.byteAt x := by
  have hr := (Memory.write_spec h).2.1 x
  simp only [Framer.byteAt, hb, he, hr]
  by_cases hx : x = a <;> simp [hx]

@[simp] theorem Framer.bytesFrom_length (fr : Framer) (a n : Nat) : (fr.bytesFrom a n).length = n := by
  induction n generalizing a with
  | zero => rfl
  | succ n ih => simp [Framer.bytesFrom, ih]

theorem Framer.bytesFrom_getElem? (fr : Framer) (a n k : Nat) (h : k < n) :
    (fr.bytesFrom a n)[k]? = some (fr.byteAt (a + k)) := by
  induction n generalizing a k with
  | zero => omega
  | succ n ih =>
    cases k with
    | zero => simp [Framer.bytesFrom]
    | succ k =>
      simp only [Framer.bytesFrom, List.getElem?_cons_succ]
      rw [ih (a + 1) k (by omega)]
      congr 2
      omega

theorem Framer.read_spec {fr : Framer} {a n : Nat} {b : Bytes} (h : fr.read a n = .ok b) :
    a + n ≤ Config.frmBufCap ∧ b = fr.bytesFrom a n ∧ b.length = n := by
  unfold Framer.read at h
  split at h
  · next hc => cases h; exact ⟨hc, rfl, by simp⟩
  · cases h

end Sys2Proof.Machine
end

