-- ==== Sys2Proof/Laws/Framer.lean ====
section
/-! SUPPORT. What each shared operation of the framer can do, said once (spec/43_framer.md). -/

namespace Sys2Proof.Machine

/-- The end of an FRM operation: a next state is the new framer with one more reply, and a stop is the operation's. -/
theorem State.finishFrm_next {s t : State} {r : Except Fault (Framer × Reply)} (h : s.finishFrm r = .next t) :
    ∃ fr rep, r = .ok (fr, rep) ∧ t = { s with frm := fr, replies := s.replies ++ [rep] } := by
  unfold State.finishFrm at h
  cases r with
  | error e => cases h
  | ok p => cases h; exact ⟨p.1, p.2, rfl, rfl⟩

@[simp] theorem State.finishFrm_ok (s : State) (fr : Framer) (rep : Reply) :
    s.finishFrm (.ok (fr, rep)) = .next { s with frm := fr, replies := s.replies ++ [rep] } := rfl

/-- `header_complete()`: it always answers (its four bytes exist), and it either rejects the declared length or enters
BODY (rule R124). -/
theorem headerComplete_cases (fr : Framer) :
    (∃ f, lengthFault ((u32le (fr.bytesFrom 0 4)).toNat + 4) = some f ∧
      headerComplete fr = .ok (fr.enterFault f, [.fault f (u32le (fr.bytesFrom 0 4))])) ∨
    (lengthFault ((u32le (fr.bytesFrom 0 4)).toNat + 4) = none ∧
      headerComplete fr =
        .ok ({ fr with len := BitVec.ofNat 13 ((u32le (fr.bytesFrom 0 4)).toNat + 4), st := .body }, [])) := by
  have hr : fr.read 0 Config.sizeBytes = .ok (fr.bytesFrom 0 4) := rfl
  unfold headerComplete
  rw [hr]
  cases h : lengthFault ((u32le (fr.bytesFrom 0 4)).toNat + 4) with
  | some f => exact .inl ⟨f, rfl, by simp only [Config.sizeBytes, h]⟩
  | none => exact .inr ⟨rfl, by simp only [Config.sizeBytes, h]⟩

/-- `frame_complete()` on a length DECODE accepts: the packet is emitted and the framer is back in HDR with nothing
collected (rule R126). -/
theorem frameComplete_ok {fr : Framer} (h1 : 14 ≤ fr.len.toNat) (h2 : fr.len.toNat ≤ 4106) :
    frameComplete fr = .ok ({ fr with cnt := 0, len := 0, st := .hdr },
      [.packet (packetOfBytes (fr.bytesFrom 0 fr.len.toNat))]) := by
  have hr : fr.read 0 fr.len.toNat = .ok (fr.bytesFrom 0 fr.len.toNat) := by
    simp [Framer.read, Config.frmBufCap, h2]
  unfold frameComplete
  rw [hr]
  simp [decodeBuffer_ok (b := fr.bytesFrom 0 fr.len.toNat) (by simpa using h1) (by simpa using h2)]

/-- What `frame_complete()` can answer at all. -/
theorem frameComplete_next {fr fr' : Framer} {es : List Event} (h : frameComplete fr = .ok (fr', es)) :
    fr' = { fr with cnt := 0, len := 0, st := .hdr } ∧ ∃ p, es = [.packet p] := by
  unfold frameComplete at h
  split at h
  · cases h
  · split at h
    · cases h
    · next p _ => cases h; exact ⟨rfl, p, rfl⟩

/-- What follows the storing of a byte: one of the three cases of rule R121. -/
theorem afterByte_cases (fr : Framer) :
    (fr.st = .hdr ∧ fr.cnt = 4 ∧ afterByte fr = headerComplete fr) ∨
    (fr.st = .body ∧ fr.cnt = fr.len ∧ afterByte fr = frameComplete fr) ∨
    (afterByte fr = .ok (fr, []) ∧ ¬(fr.st = .hdr ∧ fr.cnt = 4) ∧ ¬(fr.st = .body ∧ fr.cnt = fr.len)) := by
  unfold afterByte
  by_cases h1 : fr.st = .hdr ∧ fr.cnt = 4
  · exact .inl ⟨h1.1, h1.2, by simp [h1]⟩
  · by_cases h2 : fr.st = .body ∧ fr.cnt = fr.len
    · exact .inr (.inl ⟨h2.1, h2.2, by rw [if_neg h1, if_pos h2]⟩)
    · exact .inr (.inr ⟨by rw [if_neg h1, if_neg h2], h1, h2⟩)

theorem afterByte_hdr {fr : Framer} (h : fr.st = .hdr) (e : fr.cnt = 4) : afterByte fr = headerComplete fr :=
  if_pos ⟨h, e⟩

theorem afterByte_body {fr : Framer} (h : fr.st = .body) (e : fr.cnt = fr.len) : afterByte fr = frameComplete fr := by
  unfold afterByte
  rw [if_neg (by simp [h]), if_pos ⟨h, e⟩]

/-- The byte step (rule R121): the byte is stored at FRM_CNT, FRM_CNT goes up by one, and `afterByte` follows. -/
theorem frmByte_spec {fr : Framer} {b : Byte} {r : Framer × List Event} (h : frmByte fr b = .ok r) :
    ∃ m, Memory.write fr.buf fr.cnt.toNat b = .ok m ∧ afterByte { fr with buf := m, cnt := fr.cnt + 1 } = .ok r := by
  unfold frmByte at h
  split at h
  · cases h
  · next m hm => exact ⟨m, hm, h⟩

/-- The byte view of one byte step: the byte is at FRM_CNT, every other byte reads as before, whatever follows the store. -/
theorem frmByte_byteAt {fr fr' : Framer} {es : List Event} {b : Byte} (h : frmByte fr b = .ok (fr', es)) (a : Nat) :
    fr'.byteAt a = if a = fr.cnt.toNat then b else fr.byteAt a := by
  obtain ⟨m, hm, h2⟩ := frmByte_spec h
  rw [← Framer.byteAt_write (fr' := { fr with buf := m, cnt := fr.cnt + 1 }) hm rfl rfl a]
  rcases afterByte_cases { fr with buf := m, cnt := fr.cnt + 1 } with ⟨-, -, h1⟩ | ⟨-, -, h1⟩ | ⟨h1, -, -⟩ <;> rw [h1] at h2
  · rcases headerComplete_cases { fr with buf := m, cnt := fr.cnt + 1 } with ⟨f, -, h3⟩ | ⟨-, h3⟩ <;>
      rw [h3] at h2 <;> cases h2 <;> rfl
  · obtain ⟨rfl, p, rfl⟩ := frameComplete_next h2; rfl
  · cases h2; rfl

@[simp] theorem pushBytes_nil (fr : Framer) : pushBytes fr [] = .ok (fr, []) := rfl

theorem pushBytes_of_fault {fr : Framer} (h : fr.st = .fault) (bs : Bytes) : pushBytes fr bs = .ok (fr, []) := by
  cases bs with
  | nil => rfl
  | cons b bs => simp [pushBytes, h]

theorem pushBytes_cons {fr : Framer} (h : fr.st ≠ .fault) (b : Byte) (bs : Bytes) :
    pushBytes fr (b :: bs) =
      match frmByte fr b with
      | .error e => .error e
      | .ok (fr₁, es₁) =>
        match pushBytes fr₁ bs with
        | .error e => .error e
        | .ok (fr₂, es₂) => .ok (fr₂, es₁ ++ es₂) := by
  cases hb : frmByte fr b with
  | error e => simp [pushBytes, h, hb]
  | ok p => cases hp : pushBytes p.1 bs <;> simp [pushBytes, h, hb, hp]

/-- A next state of the loop on one more byte is a byte step and then the loop (the framer not being in FAULT). -/
theorem pushBytes_cons_ok {fr fr' : Framer} (hf : fr.st ≠ .fault) {b : Byte} {bs : Bytes} {es : List Event}
    (h : pushBytes fr (b :: bs) = .ok (fr', es)) :
    ∃ fr₁ es₁ es₂, frmByte fr b = .ok (fr₁, es₁) ∧ pushBytes fr₁ bs = .ok (fr', es₂) ∧ es = es₁ ++ es₂ := by
  rw [pushBytes_cons hf] at h
  cases h1 : frmByte fr b with
  | error e => simp [h1] at h
  | ok p =>
    obtain ⟨fr₁, es₁⟩ := p
    simp only [h1] at h
    cases h2 : pushBytes fr₁ bs with
    | error e => simp [h2] at h
    | ok q =>
      obtain ⟨fr₂, es₂⟩ := q
      simp only [h2, Except.ok.injEq, Prod.mk.injEq] at h
      exact ⟨fr₁, es₁, es₂, rfl, by rw [← h.1]; exact h2, h.2.symm⟩

/-- One induction over a chunk: what every byte step keeps, the whole loop keeps. -/
theorem pushBytes_induction {P : Framer → Prop} (hP : ∀ fr b fr' es, P fr → fr.st ≠ .fault →
    frmByte fr b = .ok (fr', es) → P fr') {fr fr' : Framer} {bs : Bytes} {es : List Event} (h0 : P fr)
    (h : pushBytes fr bs = .ok (fr', es)) : P fr' := by
  induction bs generalizing fr es with
  | nil => cases h; exact h0
  | cons b bs ih =>
    by_cases hf : fr.st = .fault
    · rw [pushBytes_of_fault hf] at h; cases h; exact h0
    · obtain ⟨fr₁, es₁, es₂, h1, h2, -⟩ := pushBytes_cons_ok hf h
      exact ih (hP fr b fr₁ es₁ h0 hf h1) h2

/-- The loop on two byte strings in a row is the loop on the first and then, from where it ends, on the second. -/
theorem pushBytes_append (fr : Framer) (bs cs : Bytes) :
    pushBytes fr (bs ++ cs) =
      match pushBytes fr bs with
      | .error e => .error e
      | .ok (fr₁, es₁) =>
        match pushBytes fr₁ cs with
        | .error e => .error e
        | .ok (fr₂, es₂) => .ok (fr₂, es₁ ++ es₂) := by
  induction bs generalizing fr with
  | nil => simp only [List.nil_append, pushBytes_nil]; cases pushBytes fr cs <;> rfl
  | cons b bs ih =>
    by_cases hf : fr.st = .fault
    · rw [pushBytes_of_fault hf, pushBytes_of_fault hf]
      simp [pushBytes_of_fault hf]
    · rw [List.cons_append, pushBytes_cons hf, pushBytes_cons hf]
      cases frmByte fr b with
      | error e => rfl
      | ok p =>
        simp only [ih p.1]
        cases pushBytes p.1 bs with
        | error e => rfl
        | ok q =>
          simp only
          cases pushBytes q.1 cs with
          | error e => rfl
          | ok r => simp

/-- What operation 3 can answer (rules R70, R122, R127, R128). -/
theorem framerPush_cases (fr : Framer) (chunk : Bytes) :
    (chunk = [] ∧ framerPush fr chunk = .ok (framerEos fr)) ∨
    (chunk ≠ [] ∧ fr.st = .closed ∧ framerPush fr chunk = .ok (fr, .refused .closed)) ∨
    (chunk ≠ [] ∧ fr.st = .fault ∧ framerPush fr chunk = .ok (fr, .refused .faulted)) ∨
    (chunk ≠ [] ∧ (fr.st = .hdr ∨ fr.st = .body) ∧
      ((∃ e, pushBytes fr chunk = .error e ∧ framerPush fr chunk = .error e) ∨
       (∃ fr' es, pushBytes fr chunk = .ok (fr', es) ∧ framerPush fr chunk = .ok (fr', pushReply fr' es)))) := by
  cases chunk with
  | nil => exact .inl ⟨rfl, rfl⟩
  | cons b bs =>
    have hne : (b :: bs) ≠ [] := by simp
    have hp : framerPush fr (b :: bs) = pushChunk fr (b :: bs) := by simp [framerPush]
    cases hst : fr.st with
    | closed => exact .inr (.inl ⟨hne, rfl, by simp [hp, pushChunk, hst]⟩)
    | fault => exact .inr (.inr (.inl ⟨hne, rfl, by simp [hp, pushChunk, hst]⟩))
    | hdr =>
      refine .inr (.inr (.inr ⟨hne, .inl rfl, ?_⟩))
      cases h : pushBytes fr (b :: bs) with
      | error e => exact .inl ⟨e, rfl, by simp [hp, pushChunk, hst, h]⟩
      | ok r => exact .inr ⟨r.1, r.2, rfl, by simp [hp, pushChunk, hst, h]⟩
    | body =>
      refine .inr (.inr (.inr ⟨hne, .inr rfl, ?_⟩))
      cases h : pushBytes fr (b :: bs) with
      | error e => exact .inl ⟨e, rfl, by simp [hp, pushChunk, hst, h]⟩
      | ok r => exact .inr ⟨r.1, r.2, rfl, by simp [hp, pushChunk, hst, h]⟩

end Sys2Proof.Machine
end

