-- ==== Sys2Proof/Laws/PerInstr.lean ====
section
/-! SUPPORT. Statements made per instruction: one lemma per constructor of Instr. -/

namespace Sys2Proof.Laws

/-- An instruction is encoded in the code space that its row of spec/opcode_table.json has as its format. -/
def Space.Statement (i : Instr) : Prop := (encode i).format = i.format

theorem Space.construct (v : Variant) (id : I32) (body : Bytes) : Space.Statement (.construct v id body) := rfl
theorem Space.encode (p : Packet) : Space.Statement (.encode p) := rfl
theorem Space.decode (buf : Bytes) : Space.Statement (.decode buf) := rfl
theorem Space.frmPush (chunk : Bytes) : Space.Statement (.frmPush chunk) := rfl
theorem Space.frmEos : Space.Statement (.frmEos) := rfl
theorem Space.reservedOp4 : Space.Statement (.reservedOp4) := rfl
theorem Space.reservedOp5 : Space.Statement (.reservedOp5) := rfl
theorem Space.reservedOp6 : Space.Statement (.reservedOp6) := rfl
theorem Space.reservedOp7 : Space.Statement (.reservedOp7) := rfl
theorem Space.frame (path : RxPath) (f : Frame) : Space.Statement (.frame path f) := rfl
theorem Space.authRequest (id : I32) (body : Bytes) : Space.Statement (.authRequest id body) := rfl
theorem Space.authResponse (id : I32) (body : Bytes) : Space.Statement (.authResponse id body) := rfl
theorem Space.execCommand (id : I32) (body : Bytes) : Space.Statement (.execCommand id body) := rfl
theorem Space.responseValue (id : I32) (body : Bytes) : Space.Statement (.responseValue id body) := rfl
theorem Space.typeOther (side : Side) (type : I32) (id : I32) (body : Bytes) : Space.Statement (.typeOther side type id body) := rfl
theorem Space.resultOk : Space.Statement (.resultOk) := rfl
theorem Space.resultBodyTooLarge : Space.Statement (.resultBodyTooLarge) := rfl
theorem Space.resultInvalidLength : Space.Statement (.resultInvalidLength) := rfl
theorem Space.resultShortFrame : Space.Statement (.resultShortFrame) := rfl
theorem Space.resultBadOp : Space.Statement (.resultBadOp) := rfl
theorem Space.resultNotWF : Space.Statement (.resultNotWF) := rfl
theorem Space.resultClosed : Space.Statement (.resultClosed) := rfl
theorem Space.resultFaulted : Space.Statement (.resultFaulted) := rfl
theorem Space.frmStHdr : Space.Statement (.frmStHdr) := rfl
theorem Space.frmStBody : Space.Statement (.frmStBody) := rfl
theorem Space.frmStClosed : Space.Statement (.frmStClosed) := rfl
theorem Space.frmStFault : Space.Statement (.frmStFault) := rfl
theorem Space.serverDataAuth (id : I32) (body : Bytes) : Space.Statement (.serverDataAuth id body) := rfl
theorem Space.serverDataAuthResponse (id : I32) (body : Bytes) : Space.Statement (.serverDataAuthResponse id body) := rfl
theorem Space.serverDataExecCommand (id : I32) (body : Bytes) : Space.Statement (.serverDataExecCommand id body) := rfl
theorem Space.serverDataResponseValue (id : I32) (body : Bytes) : Space.Statement (.serverDataResponseValue id body) := rfl

end Sys2Proof.Laws
end

