-- ==== Sys2Proof/Tests/Slice0.lean ====
section
/-! SUPPORT. Tests of the model: the well-formedness smoke tests, words written out from the spec's tables, vectors of
spec/95_test_vectors.md, and a witness for the hypotheses of each obligation. -/

namespace Sys2Proof.Tests

open Machine Safety

/-! ## Well-formedness: one ill-formed term for each check -/

theorem test_wf_refuses_empty_push : (Instr.frmPush []).wf = false := by decide
theorem test_wf_refuses_variant_code_as_other : (Instr.typeOther .receive 2 0 []).wf = false := by decide
theorem test_wf_refuses_bodyless_line : (Instr.serverDataAuth 1 []).wf = false := by decide
theorem test_wf_refuses_double_space :
    (Instr.serverDataExecCommand 2 [0x61, 0x20, 0x20, 0x62]).wf = false := by decide
theorem test_wf_refuses_trailing_blank : (Instr.serverDataAuthResponse 2 [0x61, 0x0A]).wf = false := by decide
theorem test_wf_refuses_leading_blank : (Instr.serverDataResponseValue 2 [0x20, 0x61]).wf = false := by decide
theorem test_wf_accepts_single_space : (Instr.serverDataExecCommand 2 [0x61, 0x20, 0x62]).wf = true := by decide

/-! ## Words of the tables (rules R24, R61, R66, R70, R71, R80, R81, R141) -/

theorem test_words_construct :
    decode (.op 0b000#3 0b00#2 0 1 0 [0x70, 0x77]) = .ok (.construct .authRequest 1 [0x70, 0x77]) ∧
    decode (.op 0b000#3 0b01#2 0 1 0 []) = .ok (.construct .authResponse 1 []) ∧
    decode (.op 0b000#3 0b10#2 0 1 0 []) = .ok (.construct .execCommand 1 []) ∧
    decode (.op 0b000#3 0b11#2 0 1 0 []) = .ok (.construct .responseValue 1 []) := ⟨rfl, rfl, rfl, rfl⟩

theorem test_words_codec :
    decode (.op 0b001#3 0 0xFFFFFFFF 42 7 [0x61]) =
      .ok (.encode { size := 0xFFFFFFFF, id := 42, type := 7, body := [0x61] }) ∧
    decode (.op 0b010#3 0 0 0 0 [0x0A, 0x00]) = .ok (.decode [0x0A, 0x00]) := ⟨rfl, rfl⟩

theorem test_words_framer :
    decode (.op 0b011#3 0 0 0 0 [0x0A]) = .ok (.frmPush [0x0A]) ∧
    decode (.op 0b011#3 0 0 0 0 []) = .ok .frmEos := ⟨rfl, rfl⟩

theorem test_words_reserved :
    decode (.op 0b100#3 1 2 3 4 [5]) = .ok .reservedOp4 ∧ decode (.op 0b101#3 0 0 0 0 []) = .ok .reservedOp5 ∧
    decode (.op 0b110#3 0 0 0 0 []) = .ok .reservedOp6 ∧ decode (.op 0b111#3 0 0 0 0 []) = .ok .reservedOp7 :=
  ⟨rfl, rfl, rfl, rfl⟩

/-- Frame bytes of T-DEC 11, with the pad `AB CD`. -/
theorem test_words_frame :
    decode (.wire .direct [0xFF, 0xFF, 0xFF, 0xFF, 0x2A, 0, 0, 0, 0x07, 0, 0, 0, 0xAB, 0xCD]) =
      .ok (.frame .direct { size := 0xFFFFFFFF, id := 42, type := 7, body := [], pad0 := 0xAB, pad1 := 0xCD }) := by
  decide

theorem test_words_type :
    decode (.type .transmit 0x00000003 0b00#2 1 []) = .ok (.authRequest 1 []) ∧
    decode (.type .transmit 0x00000002 0b01#2 1 []) = .ok (.authResponse 1 []) ∧
    decode (.type .transmit 0x00000002 0b10#2 1 []) = .ok (.execCommand 1 []) ∧
    decode (.type .transmit 0x00000000 0b11#2 1 []) = .ok (.responseValue 1 []) ∧
    decode (.type .transmit 0xFFFFFFFF 0 1 []) = .ok (.typeOther .transmit 0xFFFFFFFF 1 []) ∧
    decode (.type .receive 0x00000001 0 1 []) = .ok (.typeOther .receive 1 1 []) := by decide

/-- Rule R67: on the receive side a variant's code is only a field of a frame. -/
theorem test_words_type_received :
    decode (.type .receive 0x00000003 0 1 [0x61]) =
      .ok (.frame .direct { size := 11, id := 1, type := 3, body := [0x61], pad0 := 0, pad1 := 0 }) := by decide

theorem test_words_result :
    decode (.result 0b000#3) = .ok .resultOk ∧ decode (.result 0b001#3) = .ok .resultBodyTooLarge ∧
    decode (.result 0b010#3) = .ok .resultInvalidLength ∧ decode (.result 0b011#3) = .ok .resultShortFrame ∧
    decode (.result 0b100#3) = .ok .resultBadOp ∧ decode (.result 0b101#3) = .ok .resultNotWF ∧
    decode (.result 0b110#3) = .ok .resultClosed ∧ decode (.result 0b111#3) = .ok .resultFaulted :=
  ⟨rfl, rfl, rfl, rfl, rfl, rfl, rfl, rfl⟩

theorem test_words_state :
    decode (.state 0b00#2) = .ok .frmStHdr ∧ decode (.state 0b01#2) = .ok .frmStBody ∧
    decode (.state 0b10#2) = .ok .frmStClosed ∧ decode (.state 0b11#2) = .ok .frmStFault := ⟨rfl, rfl, rfl, rfl⟩

/-- `1 SERVER_DATA_AUTH hunter2` (program P1). -/
theorem test_words_console_auth :
    decode (.console (ascii ['1', ' ', 'S', 'E', 'R', 'V', 'E', 'R', '_', 'D', 'A', 'T', 'A', '_', 'A', 'U', 'T', 'H', ' ',
      'h', 'u', 'n', 't', 'e', 'r', '2'])) =
    .ok (.serverDataAuth 1 [0x68, 0x75, 0x6E, 0x74, 0x65, 0x72, 0x32]) := by decide

/-- `2 SERVER_DATA_EXEC_COMMAND say   hi`: blanks collapse (program P1, rule R83). -/
theorem test_words_console_exec :
    decode (.console (ascii ['2', ' ', 'S', 'E', 'R', 'V', 'E', 'R', '_', 'D', 'A', 'T', 'A', '_', 'E', 'X', 'E', 'C', '_',
      'C', 'O', 'M', 'M', 'A', 'N', 'D', ' ', 's', 'a', 'y', ' ', ' ', ' ', 'h', 'i'])) =
    .ok (.serverDataExecCommand 2 [0x73, 0x61, 0x79, 0x20, 0x68, 0x69]) := by decide

theorem test_words_console_auth_response :
    decode (.console (ascii ['-', '1', ' ', 'S', 'E', 'R', 'V', 'E', 'R', '_', 'D', 'A', 'T', 'A', '_', 'A', 'U', 'T', 'H',
      '_', 'R', 'E', 'S', 'P', 'O', 'N', 'S', 'E', ' ', 'x'])) =
    .ok (.serverDataAuthResponse 0xFFFFFFFF [0x78]) := by decide

theorem test_words_console_response_value :
    decode (.console (ascii ['-', '2', '1', '4', '7', '4', '8', '3', '6', '4', '8', ' ', 'S', 'E', 'R', 'V', 'E', 'R', '_',
      'D', 'A', 'T', 'A', '_', 'R', 'E', 'S', 'P', 'O', 'N', 'S', 'E', '_', 'V', 'A', 'L', 'U', 'E', ' ', 'x'])) =
    .ok (.serverDataResponseValue 0x80000000 [0x78]) := by decide

/-- Rule R81: the match is case-sensitive. -/
theorem test_console_unknown_name :
    decode (.console (ascii ['1', ' ', 's', 'e', 'r', 'v', 'e', 'r', ' ', 'x'])) = .error .unrecognizedPacketType := by
  decide

/-- Assumption 8, the model's order of tests: the unknown name before the missing body token. -/
theorem test_console_unknown_name_without_body :
    decode (.console (ascii ['1', ' ', 'x'])) = .error .unrecognizedPacketType := by decide

/-- Rule R146: a non-integer id, an id above `I32`, missing tokens. -/
theorem test_console_malformed :
    decode (.console (ascii ['1', 'x', ' ', 'a', ' ', 'b'])) = .error .malformedInput ∧
    decode (.console (ascii ['2', '1', '4', '7', '4', '8', '3', '6', '4', '8', ' ', 'a', ' ', 'b'])) =
      .error .malformedInput ∧
    decode (.console (ascii ['7'])) = .error .malformedInput ∧ decode (.console []) = .error .malformedInput := by decide

theorem test_table_words :
    decodeTableWord 8 2 = some (.decode [0]) ∧ decodeTableWord 8 3 = some (.frmPush [0]) ∧
    decodeTableWord 8 7 = some .reservedOp7 ∧ decodeTableWord 32 3 = some (.authRequest 0 []) ∧
    decodeTableWord 32 0 = some (.responseValue 0 []) := by decide

/-! ## Vectors of spec/95_test_vectors.md, one step each -/

/-- The state after the step, for a small test. -/
def after (fr : Framer) (i : Instr) : Option State :=
  match step { frm := fr, inbox := [.transfer (encode i)], replies := [] } with
  | .next t => some t
  | .fault _ => none
  | .refused _ => none

/-- The replies of one operation on a framer. -/
def repliesOf (fr : Framer) (i : Instr) : Option (List Reply) := (after fr i).map State.replies

/-- The framer registers after one operation. -/
def registersOf (fr : Framer) (i : Instr) : Option (FrmSt × Nat × Nat × ResultCode) :=
  (after fr i).map fun t => (t.frm.st, t.frm.cnt.toNat, t.frm.len.toNat, t.frm.cause)

/-- A framer in BODY after `B[0..10]` of program P6. -/
def bodyFramer : Framer :=
  { st := .body, cnt := 10, len := 16, cause := .ok, epoch := 0,
    buf := [(0, 0x0C), (1, 0), (2, 0), (3, 0), (4, 2), (5, 0), (6, 0), (7, 0), (8, 0), (9, 0)] }

/-- A framer in HDR after `0A 00 00` (T-FRM 5). -/
def headerFramer : Framer :=
  { st := .hdr, cnt := 3, len := 0, cause := .ok, epoch := 0, buf := [(0, 0x0A), (1, 0), (2, 0)] }

/-- A framer in FAULT after `05 00 00 00` (T-FRM 7). -/
def faultFramer : Framer :=
  { st := .fault, cnt := 4, len := 0, cause := .invalidLength, epoch := 0, buf := [(0, 5), (1, 0), (2, 0), (3, 0)] }

/-- A framer in CLOSED (T-FRM 18). -/
def closedFramer : Framer :=
  { st := .closed, cnt := 0, len := 0, cause := .ok, epoch := 0, buf := [] }

/-- T-CON 2. -/
theorem test_construct_pw :
    repliesOf Framer.reset (.construct .authRequest 0xFFFFFFFF [0x70, 0x77]) =
      some [.okPacket { size := 12, id := 0xFFFFFFFF, type := 3, body := [0x70, 0x77] }] := by decide

/-- T-ENC 6: the id 2147483647. -/
theorem test_encode_max_id :
    repliesOf faultFramer (.encode { size := 11, id := 0x7FFFFFFF, type := 2, body := [0x61] }) =
      some [.okFrame [0x0B, 0, 0, 0, 0xFF, 0xFF, 0xFF, 0x7F, 2, 0, 0, 0, 0x61, 0, 0]] := by decide

/-- T-ENC 14: the stored size is not read, type -1 is legal. -/
theorem test_encode_ignores_size :
    repliesOf Framer.reset (.encode { size := 0, id := 0xFFFFFFFE, type := 0xFFFFFFFF, body := [] }) =
      some [.okFrame [0x0A, 0, 0, 0, 0xFE, 0xFF, 0xFF, 0xFF, 0xFF, 0xFF, 0xFF, 0xFF, 0, 0]] := by decide

/-- T-DEC 8: pat(15). -/
theorem test_decode_pat15 :
    repliesOf Framer.reset (.decode [0x01, 0x08, 0x0F, 0x16, 0x1D, 0x24, 0x2B, 0x32, 0x39, 0x40, 0x47, 0x4E, 0x55, 0x5C,
      0x63]) = some [.okPacket { size := 370083841, id := 841688093, type := 1313292345, body := [0x55] }] := by decide

/-- T-DEC 6: pat(13). -/
theorem test_decode_pat13 :
    repliesOf Framer.reset (.decode [0x01, 0x08, 0x0F, 0x16, 0x1D, 0x24, 0x2B, 0x32, 0x39, 0x40, 0x47, 0x4E, 0x55]) =
      some [.fault { fault := .shortFrame, len := 13 }] := by decide

/-- T-DEC 1. -/
theorem test_decode_empty :
    repliesOf Framer.reset (.decode []) = some [.fault { fault := .invalidLength, len := 0 }] := by decide

/-- T-FRM 3: two frames in one chunk. -/
theorem test_push_two_frames :
    repliesOf Framer.reset (.frmPush [0x0A, 0, 0, 0, 1, 0, 0, 0, 2, 0, 0, 0, 0, 0,
      0x0C, 0, 0, 0, 2, 0, 0, 0, 0, 0, 0, 0, 0x6F, 0x6B, 0, 0]) =
      some [.okEvents [.packet { size := 10, id := 1, type := 2, body := [] },
        .packet { size := 12, id := 2, type := 0, body := [0x6F, 0x6B] }]] := by decide

/-- T-FRM 15: a packet, then a bad size field; what follows is dropped. -/
theorem test_push_fault_inside :
    repliesOf Framer.reset (.frmPush [0x0A, 0, 0, 0, 1, 0, 0, 0, 2, 0, 0, 0, 0, 0, 5, 0, 0, 0, 0x0C, 0]) =
      some [.frmFault .invalidLength [.packet { size := 10, id := 1, type := 2, body := [] }, .fault .invalidLength 5]] := by
  decide

/-- T-FRM 9, 11, 12 and 14. -/
theorem test_push_size_fields :
    registersOf Framer.reset (.frmPush [9, 0, 0, 0]) = some (.fault, 4, 0, .shortFrame) ∧
    registersOf Framer.reset (.frmPush [6, 0x10, 0, 0]) = some (.body, 4, 4106, .ok) ∧
    registersOf Framer.reset (.frmPush [7, 0x10, 0, 0]) = some (.fault, 4, 0, .invalidLength) ∧
    registersOf Framer.reset (.frmPush [0xFF, 0xFF, 0xFF, 0xFF]) = some (.fault, 4, 0, .invalidLength) := by decide

/-- T-FRM 17: end of stream inside a frame. -/
theorem test_eos_inside_frame :
    repliesOf bodyFramer .frmEos = some [.okEvents [.closed 10]] ∧
    registersOf bodyFramer .frmEos = some (.closed, 0, 0, .ok) := by decide

/-- T-FRM 15 and 16: the refusals. -/
theorem test_refusals :
    repliesOf faultFramer (.frmPush [0x78]) = some [.refused .faulted] ∧
    repliesOf faultFramer .frmEos = some [.refused .faulted] ∧
    repliesOf closedFramer (.frmPush [0x78]) = some [.refused .closed] ∧
    repliesOf closedFramer .frmEos = some [.refused .closed] := by decide

/-- T-OP: a reserved code. -/
theorem test_reserved : repliesOf bodyFramer .reservedOp6 = some [.refused .badOp] := by decide

/-- T-FRM 21 as a FRAME row on the framed path; the pad is not checked. -/
theorem test_frame_framed :
    repliesOf Framer.reset (.frame .framed { size := 10, id := 1, type := 2, body := [], pad0 := 0xAB, pad1 := 0xCD }) =
      some [.okEvents [.packet { size := 10, id := 1, type := 2, body := [] }]] := by decide

/-- T-ENC 9 as a console line. -/
theorem test_console_request :
    repliesOf Framer.reset (.serverDataResponseValue 2 [0x6F, 0x6B]) =
      some [.okFrame [0x0C, 0, 0, 0, 2, 0, 0, 0, 0, 0, 0, 0, 0x6F, 0x6B, 0, 0]] := by decide

theorem test_type_other_received :
    repliesOf Framer.reset (.typeOther .receive 0xFFFFFFFF 0xFFFFFFFE []) =
      some [.okPacket { size := 10, id := 0xFFFFFFFE, type := 0xFFFFFFFF, body := [] }] := by decide

theorem test_state_and_result_reads :
    repliesOf faultFramer .frmStFault = some [.stateRead 3 true] ∧
    repliesOf bodyFramer .frmStHdr = some [.stateRead 1 false] ∧
    repliesOf faultFramer .resultInvalidLength = some [.resultRead none 2 false true] := by decide

/-! ## Witnesses: concrete inputs that meet the hypotheses of each obligation -/

/-- A state with a framer and inputs. -/
def withInputs (fr : Framer) (inbox : List Input) : State := { frm := fr, inbox := inbox, replies := [] }

theorem witness_ResetInputEmptiesTheFramer : (withInputs faultFramer [.reset]).inbox = .reset :: [] := rfl

theorem witness_StatusReadReturnsTheRegisters :
    (withInputs bodyFramer [.statusRead]).inbox = .statusRead :: [] := rfl

theorem witness_StepRunsTheDecodedInstruction :
    (withInputs bodyFramer [.transfer (.op 2 0 0 0 0 [])]).inbox = .transfer (.op 2 0 0 0 0 []) :: [] ∧
    decode (.op 2 0 0 0 0 []) = .ok (.decode []) := ⟨rfl, rfl⟩

theorem witness_IdleStepKeepsTheState : State.reset.inbox = [] := rfl

theorem witness_EveryInstructionReturnsOneReply :
    (∃ t, exec (.decode []) State.reset = .next t) ∧ ∃ t, exec .resultOk State.reset = .next t := ⟨⟨_, rfl⟩, _, rfl⟩

theorem witness_LittleEndianConversions : ([1, 2, 3, 0x80] : Bytes).length = 4 := rfl

theorem witness_SignedConversions :
    (-2147483648 : Int) ≤ -2147483648 ∧ (-2147483648 : Int) ≤ 2147483647 ∧ (2147483647 : Int) ≤ 2147483647 := by decide

/-- Bodies at the bounds of CONSTRUCT and ENCODE (rule R91: 4096 and 4097; rule R114: 4092 and 4093). -/
theorem witness_body_lengths :
    (List.replicate 4092 (0x41 : Byte)).length = 4092 ∧ (List.replicate 4093 (0x41 : Byte)).length = 4093 ∧
    (List.replicate 4096 (0x41 : Byte)).length = 4096 ∧ (List.replicate 4097 (0x41 : Byte)).length = 4097 := by
  simp only [List.length_replicate, and_self]

/-- ConstructGivesThePacket, EncodeLaysOutTheFrame, EncodedLengthAndSizeField, VariantRowsConstruct, OtherTypesAreCarriedRaw,
ConsoleLineIsEncodeOfConstruct, FrameRowOnBothPaths: both clauses at their bounds. -/
theorem witness_BodyBounds :
    (∃ b : Bytes, b.length ≤ 4096 ∧ 4096 ≤ b.length) ∧ (∃ b : Bytes, 4097 ≤ b.length ∧ b.length ≤ 4097) ∧
    (∃ b : Bytes, b.length ≤ 4092 ∧ 4092 ≤ b.length) ∧ (∃ b : Bytes, 4093 ≤ b.length ∧ b.length ≤ 4096) := by
  obtain ⟨h1, h2, h3, h4⟩ := witness_body_lengths
  exact ⟨⟨_, h3.le, h3.ge⟩, ⟨_, h4.ge, h4.le⟩, ⟨_, h1.le, h1.ge⟩, _, h2.ge, by omega⟩

theorem witness_ConstructedSizeIsTheWireSize :
    exec (.construct .execCommand 1 [0x61]) State.reset =
      .next (State.reset.reply (.okPacket { size := 11, id := 1, type := 2, body := [0x61] })) := rfl

/-- DecodeReadsTheFields: buffers of 9, 10, 13, 14, 4106 and 4107 bytes. -/
theorem witness_BufferBounds :
    ((List.replicate 9 (0 : Byte)).length ≤ 9 ∧ 10 ≤ (List.replicate 10 (0 : Byte)).length ∧
      (List.replicate 13 (0 : Byte)).length ≤ 13 ∧ 14 ≤ (List.replicate 14 (0 : Byte)).length) ∧
    (List.replicate 4106 (0 : Byte)).length ≤ 4106 ∧ 4107 ≤ (List.replicate 4107 (0 : Byte)).length := by
  simp only [List.length_replicate]; decide

theorem witness_DecodeIgnoresThePad : 12 ≤ (List.replicate 12 (0 : Byte)).length := by simp

/-- EncodeAndDecodeRoundTrip: a packet from CONSTRUCT with a short body. -/
theorem witness_EncodeAndDecodeRoundTrip :
    ∃ v id body, exec (.construct v id body) State.reset =
      .next (State.reset.reply (.okPacket { size := 10, id := 1, type := 2, body := [] })) :=
  ⟨.execCommand, 1, [], rfl⟩

theorem witness_CoalescedReadIsOnePacket :
    exec (.encode { size := 10, id := 1, type := 2, body := [] }) State.reset =
      .next (State.reset.reply (.okFrame [0x0A, 0, 0, 0, 1, 0, 0, 0, 2, 0, 0, 0, 0, 0])) ∧
    ([0x0A, 0, 0, 0, 1, 0, 0, 0, 2, 0, 0, 0, 0, 0] : Bytes).length +
      ([0x0A, 0, 0, 0, 1, 0, 0, 0, 2, 0, 0, 0, 0, 0] : Bytes).length ≤ 4106 := ⟨rfl, by decide⟩

theorem witness_ReservedCodesAreRefused :
    4 ≤ (0b100#3).toNat ∧ 4 ≤ (0b111#3).toNat ∧
    (withInputs bodyFramer [.transfer (.op 0b100#3 1 2 3 4 [5])]).inbox = .transfer (.op 0b100#3 1 2 3 4 [5]) :: [] := by
  decide

theorem witness_HeaderByteIsStored :
    Framer.reset.st = .hdr ∧ Framer.reset.cnt.toNat ≤ 2 ∧
    ({ Framer.reset with cnt := 2 } : Framer).cnt.toNat ≤ 2 := by decide

/-- A framer in HDR with three header bytes of a declared size. -/
def headerOf (b0 b1 : Byte) : Framer := { headerFramer with buf := [(0, b0), (1, b1), (2, 0)] }

/-- The declared size when the fourth byte is 0. -/
def sizeOf3 (fr : Framer) : Nat :=
  (fr.byteAt 0).toNat + 256 * (fr.byteAt 1).toNat + 65536 * (fr.byteAt 2).toNat + 16777216 * (0#8).toNat

/-- SizeFieldIsJudged: the declared sizes 5, 6, 9, 10, 4102 and 4103, where its clauses meet. -/
theorem witness_SizeFieldIsJudged :
    headerFramer.st = .hdr ∧ headerFramer.cnt.toNat = 3 ∧ (5#32).toNat = sizeOf3 (headerOf 5 0) ∧
    (6#32).toNat = sizeOf3 (headerOf 6 0) ∧ (9#32).toNat = sizeOf3 (headerOf 9 0) ∧
    (10#32).toNat = sizeOf3 headerFramer ∧ (4102#32).toNat = sizeOf3 (headerOf 6 16) ∧
    (4103#32).toNat = sizeOf3 (headerOf 7 16) := by decide

theorem witness_BodyByteIsStored :
    bodyFramer.st = .body ∧ bodyFramer.cnt.toNat + 1 < bodyFramer.len.toNat ∧ bodyFramer.len.toNat ≤ 4106 := by decide

theorem witness_LastByteEmitsThePacket :
    ∃ fr : Framer, fr.st = .body ∧ fr.cnt.toNat + 1 = fr.len.toNat ∧ 14 ≤ fr.len.toNat ∧ fr.len.toNat ≤ 4106 ∧
      declaredSize fr + 4 = fr.len.toNat :=
  ⟨{ bodyFramer with cnt := 15 }, by decide⟩

theorem witness_EndOfStreamCloses :
    Framer.reset.st = .hdr ∧ bodyFramer.st = .body ∧ closedFramer.st = .closed ∧ faultFramer.st = .fault := by decide

theorem witness_ClosedAndFaultRefuse :
    closedFramer.st = .closed ∧ faultFramer.st = .fault ∧ isFrm (.frmPush [1]) = true ∧ isFrm .frmEos = true ∧
    isFrm (.frame .framed { size := 10, id := 0, type := 0, body := [], pad0 := 0, pad1 := 0 }) = true ∧
    (withInputs faultFramer [.transfer (encode (.frmPush [1]))]).inbox.head? ≠ some .reset ∧
    ∃ t, step (withInputs faultFramer [.transfer (encode (.frmPush [1]))]) = .next t :=
  ⟨by decide, by decide, by decide, by decide, by decide, by decide, _, rfl⟩

theorem witness_ChunkBoundariesAreNotObservable :
    (∃ a b, exec (.frmPush [0x0A]) State.reset = .next a ∧ exec (.frmPush [0, 0, 0]) a = .next b) ∧
    ∃ a b, exec (.frmPush [5, 0, 0, 0]) State.reset = .next a ∧ a.frm.st = .fault ∧ exec (.frmPush [1]) a = .next b :=
  ⟨⟨_, _, rfl, rfl⟩, _, _, rfl, rfl, rfl⟩

theorem witness_BytesAfterAFaultAreDropped :
    ∃ t, State.reset.frm.st ≠ .fault ∧ exec (.frmPush [5, 0, 0, 0]) State.reset = .next t ∧ t.frm.st = .fault :=
  ⟨_, by decide, rfl, rfl⟩

theorem witness_PushCompletesWithItsEvents :
    ([0x0A] : Bytes) ≠ [] ∧ FrmInv bodyFramer ∧ FrmInv headerFramer ∧ bodyFramer.st = .body ∧ headerFramer.st = .hdr := by
  decide

theorem witness_PushStoresOnlyAtTheCount :
    ∃ t, exec (.frmPush [0x0A]) State.reset = .next t ∧
      ∀ (k : Nat) (fr : Framer) (es : List Event), k < 1 → pushBytes State.reset.frm (([0x0A] : Bytes).take k) = .ok (fr, es) →
        fr.st ≠ .fault → fr.cnt.toNat ≠ 7 := by
  refine ⟨_, rfl, fun k fr es hk h _ => ?_⟩
  obtain rfl : k = 0 := by omega
  cases h; decide

/-- FramedPathAgreesWithDecode: the frames `A` and `05 00 00 00` with five more bytes, in two chunks. -/
theorem witness_FramedPathAgreesWithDecode :
    Framer.reset.st = .hdr ∧ Framer.reset.cnt = 0 ∧
    (∀ f ∈ ([[0x0A, 0, 0, 0, 1, 0, 0, 0, 2, 0, 0, 0, 0, 0], [5, 0, 0, 0, 1, 2, 3, 4, 5]] : List Bytes),
      4 ≤ f.length ∧ (u32le (slice f 0 4)).toNat = f.length - 4) ∧
    (∀ c ∈ ([[0x0A, 0, 0, 0, 1], [0, 0, 0, 2, 0, 0, 0, 0, 0, 5, 0, 0, 0, 1, 2, 3, 4, 5]] : List Bytes), c ≠ []) ∧
    ([[0x0A, 0, 0, 0, 1], [0, 0, 0, 2, 0, 0, 0, 0, 0, 5, 0, 0, 0, 1, 2, 3, 4, 5]] : List Bytes).flatten =
      ([[0x0A, 0, 0, 0, 1, 0, 0, 0, 2, 0, 0, 0, 0, 0], [5, 0, 0, 0, 1, 2, 3, 4, 5]] : List Bytes).flatten := by decide

/-- EveryStepKeepsTheInvariant, NoStepStopsUnderTheInvariant: the invariant holds in each of the four states of rule R29. -/
theorem witness_Invariant : FrmInv Framer.reset ∧ FrmInv bodyFramer ∧ FrmInv closedFramer ∧ FrmInv faultFramer :=
  ⟨by decide, by decide, by decide, by decide⟩

theorem witness_EveryStepKeepsTheInvariant :
    ∃ t, step (withInputs bodyFramer [.transfer (encode (.frmPush [1]))]) = .next t := ⟨_, rfl⟩

theorem witness_CauseIsKeptUntilReset :
    FrmInv faultFramer ∧ faultFramer.cause ≠ .ok ∧ (withInputs faultFramer []).inbox.head? ≠ some .reset ∧
    ∃ t, step (withInputs faultFramer []) = .next t := ⟨by decide, by decide, by decide, _, rfl⟩

theorem witness_PureInstructionsUseOperandsAlone :
    isPure (.encode { size := 0, id := 0, type := 0, body := [] }) = true ∧ isPure .reservedOp4 = true := by decide

theorem witness_AgentsInterleaveFreely :
    isPure (.construct .execCommand 1 []) = true ∧ isFrm .frmEos = true ∧
    ∃ a b c d, exec (.construct .execCommand 1 []) State.reset = .next a ∧ exec .frmEos a = .next b ∧
      exec .frmEos State.reset = .next c ∧ exec (.construct .execCommand 1 []) c = .next d :=
  ⟨by decide, by decide, _, _, _, _, rfl, rfl, rfl, rfl⟩

theorem witness_FrameRowFramedEmitsThePacket :
    State.reset.frm.st = .hdr ∧ State.reset.frm.cnt = 0 ∧ ([] : Bytes).length ≤ 4092 ∧
    (10#32).toNat = ([] : Bytes).length + 10 := by decide

theorem witness_ResultRowsReadTheCodes :
    (Instr.resultFaulted, 7#3) ∈
      [(Instr.resultOk, 0#3), (.resultBodyTooLarge, 1), (.resultInvalidLength, 2), (.resultShortFrame, 3),
        (.resultBadOp, 4), (.resultNotWF, 5), (.resultClosed, 6), (.resultFaulted, 7)] := by decide

theorem witness_StateRowsReadFrmSt :
    (Instr.frmStFault, 3#2) ∈
      [(Instr.frmStHdr, 0#2), (.frmStBody, 1), (.frmStClosed, 2), (.frmStFault, 3)] ∧
    Framer.reset.st = .hdr ∧ bodyFramer.st = .body ∧ closedFramer.st = .closed ∧ faultFramer.st = .fault := by decide

theorem witness_ConsoleLineIsEncodeOfConstruct :
    (Instr.serverDataAuth 1 [0x61], Variant.authRequest) ∈
      [(Instr.serverDataAuth 1 [0x61], Variant.authRequest), (.serverDataAuthResponse 1 [0x61], .authResponse),
        (.serverDataExecCommand 1 [0x61], .execCommand), (.serverDataResponseValue 1 [0x61], .responseValue)] ∧
    ([0x61] : Bytes).length ≤ 4096 := by decide

theorem witness_LatestCodeIsTheLastOutcomes :
    (Reply.refused .badOp).code = some .badOp ∧ (Reply.stateRead 0 true).code = none := by decide

theorem witness_DecodeOfEncodeIsTheInstruction :
    (Instr.frmPush [1]).wf = true ∧ (Instr.frmPush [1]).format ≠ .console ∧
    (Instr.typeOther .receive 1 0 []).wf = true := by decide

theorem witness_ConsoleTextIsReadBack :
    (Instr.serverDataAuth 0x80000000 [0x61, 0x20, 0x62]).wf = true ∧
    (Instr.serverDataAuth 0x80000000 [0x61, 0x20, 0x62]).format = .console := by decide

theorem witness_WireBytesAreKept : 14 ≤ (List.replicate 14 (0 : Byte)).length := by decide

theorem witness_ShortReadsAreOperands :
    (List.replicate 13 (0 : Byte)).length ≤ 13 ∧ List.replicate 13 (0 : Byte) ≠ [] ∧ ([] : Bytes).length ≤ 13 := by decide

end Sys2Proof.Tests
end

/-! PROOF. The little-endian conversions of rule R7. -/

namespace Sys2Proof.Machine

/-- Byte `k` of `le32 v` is the field of 8 bits from bit `8 * k`. -/
theorem le32_getD (v : U32) {k : Nat} (hk : k < 4) : (le32 v).getD k 0 = v.extractLsb' (8 * k) 8 := by
  interval_cases k <;> rfl

/-- Rule R7: byte `k` of `le32 v` is digit `k` of `v` in base 256. -/
theorem le32_getD_toNat (v : U32) {k : Nat} (hk : k < 4) :
    ((le32 v).getD k 0).toNat = v.toNat / 256 ^ k % 256 := by
  rw [le32_getD v hk, BitVec.extractLsb'_toNat, Nat.shiftRight_eq_div_pow, pow_mul]
  norm_num

/-- Rule R7: no sum of four weighted bytes wraps at 2^32. -/
theorem u32le_toNat (b0 b1 b2 b3 : Byte) :
    (u32le [b0, b1, b2, b3]).toNat = b0.toNat + 256 * b1.toNat + 65536 * b2.toNat + 16777216 * b3.toNat := by
  have hlt : b0.toNat + 256 * b1.toNat + 65536 * b2.toNat + 16777216 * b3.toNat < 2 ^ 32 := by omega
  exact (BitVec.toNat_ofNat _ 32).trans (Nat.mod_eq_of_lt hlt)

/-- A word is the sum of its four base-256 digits, each at its weight. -/
theorem u32le_le32 (v : U32) : u32le (le32 v) = v := by
  apply BitVec.eq_of_toNat_eq
  rw [le32, u32le_toNat]
  simp only [BitVec.extractLsb'_toNat, Nat.shiftRight_eq_div_pow]
  omega

/-- The base-256 digits of a sum of four weighted bytes are the bytes. -/
theorem le32_u32le {b : Bytes} (hb : b.length = 4) : le32 (u32le b) = b := by
  obtain ⟨b0, b1, b2, b3, rfl⟩ := List.length_eq_four.mp hb
  have hsum := u32le_toNat b0 b1 b2 b3
  simp only [le32, List.cons.injEq, and_true, ← BitVec.toNat_inj, BitVec.extractLsb'_toNat,
    Nat.shiftRight_eq_div_pow, hsum]
  omega

end Sys2Proof.Machine

namespace Sys2Proof.Proofs

open Machine

/-- Settles O7, by the base-256 digits of a word and their weighted sum. -/
theorem littleEndianConversions : Obligations.LittleEndianConversions :=
  ⟨fun v _ hk => le32_getD_toNat v hk, u32le_toNat, u32le_le32, fun _ => le32_u32le⟩

end Sys2Proof.Proofs

/-! PROOF. The instructions of TX and DEC beside those of FRM (rules R12, R20): what each kind reads and changes. -/

namespace Sys2Proof.Machine

open Safety

/-- Rule R20: an instruction that is pure adds one reply, fixed by its operands, and changes nothing else. -/
theorem exec_of_isPure {i : Instr} (hi : isPure i = true) : ∃ r : Reply, ∀ s : State, exec i s = .next (s.reply r) := by
  cases i with
  | construct v id body => exact ⟨packetReply (constructPacket v id body), fun _ => rfl⟩
  | encode p => exact ⟨frameReply (encodePacket p), fun _ => rfl⟩
  | decode buf => exact ⟨packetReply (decodeBuffer buf), fun _ => rfl⟩
  | reservedOp4 | reservedOp5 | reservedOp6 | reservedOp7 => exact ⟨.refused .badOp, fun _ => rfl⟩
  | frame path f =>
    cases path with
    | direct => exact ⟨packetReply (decodeBuffer (frameBytes f)), fun _ => rfl⟩
    | framed => cases hi
  | authRequest id body => exact ⟨packetReply (constructPacket .authRequest id body), fun _ => rfl⟩
  | authResponse id body => exact ⟨packetReply (constructPacket .authResponse id body), fun _ => rfl⟩
  | execCommand id body => exact ⟨packetReply (constructPacket .execCommand id body), fun _ => rfl⟩
  | responseValue id body => exact ⟨packetReply (constructPacket .responseValue id body), fun _ => rfl⟩
  | typeOther side type id body =>
    cases side with
    | transmit => exact ⟨frameReply (encodePacket (packetOf type id body)), fun _ => rfl⟩
    | receive => exact ⟨packetReply (decodeBuffer (frameOfPacket (packetOf type id body))), fun _ => rfl⟩
  | serverDataAuth id body => exact ⟨requestReply .authRequest id body, fun _ => rfl⟩
  | serverDataAuthResponse id body => exact ⟨requestReply .authResponse id body, fun _ => rfl⟩
  | serverDataExecCommand id body => exact ⟨requestReply .execCommand id body, fun _ => rfl⟩
  | serverDataResponseValue id body => exact ⟨requestReply .responseValue id body, fun _ => rfl⟩
  | _ => cases hi

/-- The operations of FRM are a push, the end of stream and a frame on the framed path. -/
theorem isFrm_cases {j : Instr} (hj : isFrm j = true) :
    (∃ chunk, j = .frmPush chunk) ∨ j = .frmEos ∨ ∃ f, j = .frame .framed f := by
  cases j with
  | frmPush chunk => exact .inl ⟨chunk, rfl⟩
  | frmEos => exact .inr (.inl rfl)
  | frame path f =>
    cases path with
    | direct => cases hj
    | framed => exact .inr (.inr ⟨f, rfl⟩)
  | _ => cases hj

/-- Rule R12: an operation of FRM is a function of the framer alone; of the rest of the state it changes nothing but the
reply it adds. -/
theorem exec_of_isFrm {j : Instr} (hj : isFrm j = true) :
    ∃ op : Framer → Except Fault (Framer × Reply), ∀ s : State, exec j s = s.finishFrm (op s.frm) := by
  rcases isFrm_cases hj with ⟨chunk, rfl⟩ | rfl | ⟨f, rfl⟩
  · exact ⟨fun fr => framerPush fr chunk, fun _ => rfl⟩
  · exact ⟨fun fr => .ok (framerEos fr), fun _ => rfl⟩
  · exact ⟨fun fr => framerPush fr (frameBytes f), fun _ => rfl⟩

end Sys2Proof.Machine

namespace Sys2Proof.Proofs

open Machine Safety

/-- Settles O36: the pure instruction leaves the framer the operation of FRM reads, and its own reply reads no state. -/
theorem agentsInterleaveFreely : Obligations.AgentsInterleaveFreely := by
  intro i j s a b c d hi hj ha hb hc hd
  obtain ⟨r, hpure⟩ := exec_of_isPure hi
  obtain ⟨op, hfrm⟩ := exec_of_isFrm hj
  obtain rfl : s.reply r = a := by simpa [hpure] using ha
  obtain rfl : c.reply r = d := by simpa [hpure] using hd
  rw [hfrm] at hb hc
  obtain ⟨fr, rep, hop, rfl⟩ := State.finishFrm_next hc
  rw [State.reply_frm, hop, State.finishFrm_ok] at hb
  cases hb
  exact ⟨rfl, r, rep, by simp, by simp⟩

end Sys2Proof.Proofs

/-! PROOF. The invariant of rule R29: what each operation of the framer leaves, and that every step keeps it. -/

namespace Sys2Proof.Machine

open Safety

/-- The declared size of rule R29 is the size field that `header_complete()` reads (rule R124). -/
theorem u32le_bytesFrom_toNat (fr : Framer) : (u32le (fr.bytesFrom 0 4)).toNat = declaredSize fr :=
  u32le_toNat _ _ _ _

/-- The four ways the step after a stored byte can end (rules R121, R124, R126): the size field rejected, the size field
admitted, the frame completed, or nothing. -/
theorem afterByte_next {fr fr' : Framer} {es : List Event} (h : afterByte fr = .ok (fr', es)) :
    (fr.st = .hdr ∧ fr.cnt = 4 ∧ ∃ f, lengthFault (declaredSize fr + 4) = some f ∧ fr' = fr.enterFault f) ∨
    (fr.st = .hdr ∧ fr.cnt = 4 ∧ lengthFault (declaredSize fr + 4) = none ∧
      fr' = { fr with len := BitVec.ofNat 13 (declaredSize fr + 4), st := .body }) ∨
    (fr.st = .body ∧ fr.cnt = fr.len ∧ fr' = { fr with cnt := 0, len := 0, st := .hdr }) ∨
    (¬(fr.st = .hdr ∧ fr.cnt = 4) ∧ ¬(fr.st = .body ∧ fr.cnt = fr.len) ∧ fr' = fr) := by
  rcases afterByte_cases fr with ⟨hst, hcnt, hr⟩ | ⟨hst, hcnt, hr⟩ | ⟨hr, hnhdr, hnbody⟩ <;> rw [hr] at h
  · rcases headerComplete_cases fr with ⟨f, hf, hr⟩ | ⟨hf, hr⟩ <;> rw [u32le_bytesFrom_toNat] at hf <;>
      rw [hr] at h <;> cases h
    · exact .inl ⟨hst, hcnt, f, hf, rfl⟩
    · exact .inr (.inl ⟨hst, hcnt, hf, by rw [u32le_bytesFrom_toNat]⟩)
  · exact .inr (.inr (.inl ⟨hst, hcnt, (frameComplete_next h).1⟩))
  · cases h
    exact .inr (.inr (.inr ⟨hnhdr, hnbody, rfl⟩))

/-- What follows a stored byte leaves FRM_BUF alone, and FRM_CNT is kept or cleared. -/
theorem afterByte_buf_cnt {fr fr' : Framer} {es : List Event} (h : afterByte fr = .ok (fr', es)) :
    fr'.buf = fr.buf ∧ (fr'.cnt = fr.cnt ∨ fr'.cnt = 0) := by
  rcases afterByte_next h with ⟨-, -, f, -, rfl⟩ | ⟨-, -, -, rfl⟩ | ⟨-, -, rfl⟩ | ⟨-, -, rfl⟩
  · exact ⟨rfl, .inl rfl⟩
  · exact ⟨rfl, .inl rfl⟩
  · exact ⟨rfl, .inr rfl⟩
  · exact ⟨rfl, .inl rfl⟩

/-- A byte step writes its byte at FRM_CNT, and then counts it or clears the count. -/
theorem frmByte_buf_cnt {fr fr' : Framer} {b : Byte} {es : List Event} (h : frmByte fr b = .ok (fr', es)) :
    Memory.write fr.buf fr.cnt.toNat b = .ok fr'.buf ∧ (fr'.cnt = fr.cnt + 1 ∨ fr'.cnt = 0) := by
  obtain ⟨m, hm, hafter⟩ := frmByte_spec h
  obtain ⟨hbuf, hcnt⟩ := afterByte_buf_cnt hafter
  exact ⟨hm.trans (congrArg Except.ok hbuf.symm), hcnt⟩

/-- Rule R28: a byte step keeps every byte below FRM_CNT written. -/
theorem frmByte_written {fr fr' : Framer} {b : Byte} {es : List Event} (h : frmByte fr b = .ok (fr', es))
    (hw : Written fr) : Written fr' := by
  obtain ⟨hm, hcnt⟩ := frmByte_buf_cnt h
  obtain ⟨-, hread, -⟩ := Memory.write_spec hm
  intro a ha
  rw [hread a]
  split
  · rfl
  · next hne =>
    refine hw a ?_
    rcases hcnt with hcnt | hcnt <;> rw [hcnt] at ha <;> bv_omega

/-- A byte step keeps FRM_BUF in canonical form. -/
theorem frmByte_wf {fr fr' : Framer} {b : Byte} {es : List Event} (h : frmByte fr b = .ok (fr', es))
    (hwf : Memory.wf fr.buf = true) : Memory.wf fr'.buf = true :=
  (Memory.write_spec (frmByte_buf_cnt h).1).2.2 hwf

/-- A rejected size field is the case of rule R29 (d). -/
theorem inFault_enterFault {fr : Framer} {f : FaultName} (hcnt : fr.cnt = 4) (hlen : fr.len.toNat = 0)
    (hf : lengthFault (declaredSize fr + 4) = some f) : InFault (fr.enterFault f) := by
  refine ⟨rfl, congrArg BitVec.toNat hcnt, hlen, ?_⟩
  cases f with
  | bodyTooLarge => exact absurd hf (lengthFault_ne_bodyTooLarge _)
  | invalidLength =>
    have hsize := (lengthFault_invalidLength_iff _).mp hf
    exact .inl ⟨rfl, show declaredSize fr ≤ 5 ∨ 4103 ≤ declaredSize fr by omega⟩
  | shortFrame =>
    have hsize := (lengthFault_shortFrame_iff _).mp hf
    exact .inr ⟨rfl, show 6 ≤ declaredSize fr ∧ declaredSize fr ≤ 9 by omega⟩

/-- An admitted size field is the case of rule R29 (b), with four bytes collected. -/
theorem inBody_of_admitted {fr : Framer} (hcnt : fr.cnt = 4) (hcause : fr.cause = .ok)
    (hf : lengthFault (declaredSize fr + 4) = none) :
    InBody { fr with len := BitVec.ofNat 13 (declaredSize fr + 4), st := .body } := by
  have hsize := (lengthFault_none_iff _).mp hf
  have hlen : (BitVec.ofNat 13 (declaredSize fr + 4)).toNat = declaredSize fr + 4 :=
    (BitVec.toNat_ofNat _ 13).trans (Nat.mod_eq_of_lt (by omega))
  have hcnt4 : fr.cnt.toNat = 4 := congrArg BitVec.toNat hcnt
  simp only [InBody, hlen, hcnt4, true_and]
  exact ⟨hsize.1, hsize.2, le_rfl, by omega, hcause, rfl⟩

/-- A byte at FRM_CNT of 4 or more leaves the declared size as it is. -/
theorem declaredSize_of_write {fr fr' : Framer} {b : Byte} (h : Memory.write fr.buf fr.cnt.toNat b = .ok fr'.buf)
    (hepoch : fr'.epoch = fr.epoch) (hcnt : 4 ≤ fr.cnt.toNat) : declaredSize fr' = declaredSize fr := by
  have hbyte (k : Nat) (hk : k < 4) : fr'.byteAt k = fr.byteAt k :=
    (Framer.byteAt_write h rfl hepoch k).trans (if_neg (by omega))
  simp [declaredSize, hbyte]

/-- Rules R121 and R124: from case (a) of rule R29 a byte step ends in case (a), (b) or (d). -/
theorem frmByte_of_inHdr {fr fr' : Framer} {b : Byte} {es : List Event} (hinv : InHdr fr)
    (h : frmByte fr b = .ok (fr', es)) : InHdr fr' ∨ InBody fr' ∨ InFault fr' := by
  obtain ⟨hst, hcnt, hlen, hcause⟩ := hinv
  obtain ⟨m, -, hafter⟩ := frmByte_spec h
  rcases afterByte_next hafter with
    ⟨-, hfour, f, hf, rfl⟩ | ⟨-, hfour, hf, rfl⟩ | ⟨hbody, -, -⟩ | ⟨hnfour, -, rfl⟩
  · exact .inr (.inr (inFault_enterFault hfour hlen hf))
  · exact .inr (.inl (inBody_of_admitted hfour hcause hf))
  · cases hst.symm.trans hbody
  · have hne : fr.cnt + 1 ≠ 4 := fun heq => hnfour ⟨hst, heq⟩
    exact .inl ⟨hst, show (fr.cnt + 1).toNat ≤ 3 by bv_omega, hlen, hcause⟩

/-- Rules R125 and R126: from case (b) of rule R29 a byte step ends in case (a) or (b). -/
theorem frmByte_of_inBody {fr fr' : Framer} {b : Byte} {es : List Event} (hinv : InBody fr)
    (h : frmByte fr b = .ok (fr', es)) : InHdr fr' ∨ InBody fr' := by
  obtain ⟨hst, hlo, hhi, hcnt, hlt, hcause, hsize⟩ := hinv
  obtain ⟨m, hm, hafter⟩ := frmByte_spec h
  rcases afterByte_next hafter with ⟨hhdr, -⟩ | ⟨hhdr, -⟩ | ⟨-, -, rfl⟩ | ⟨-, hnlen, rfl⟩
  · cases hst.symm.trans hhdr
  · cases hst.symm.trans hhdr
  · exact .inl ⟨rfl, Nat.zero_le 3, rfl, hcause⟩
  · have hne : fr.cnt + 1 ≠ fr.len := fun heq => hnlen ⟨hst, heq⟩
    have hkept : declaredSize { fr with buf := m, cnt := fr.cnt + 1 } = declaredSize fr :=
      declaredSize_of_write hm rfl hcnt
    exact .inr ⟨hst, hlo, hhi, show 4 ≤ (fr.cnt + 1).toNat by bv_omega,
      show (fr.cnt + 1).toNat < fr.len.toNat by bv_omega, hcause, hkept ▸ hsize⟩

/-- What holds between the bytes of a chunk: the invariant, in a framer that is not CLOSED. -/
def PushInv (fr : Framer) : Prop := FrmInv fr ∧ fr.st ≠ .closed

/-- A byte step keeps what holds between the bytes of a chunk, the framer not being in FAULT. -/
theorem frmByte_pushInv {fr fr' : Framer} {b : Byte} {es : List Event} (hinv : PushInv fr) (hnfault : fr.st ≠ .fault)
    (h : frmByte fr b = .ok (fr', es)) : PushInv fr' := by
  obtain ⟨⟨hok, hwritten, hwf⟩, hnclosed⟩ := hinv
  have hcases : InHdr fr' ∨ InBody fr' ∨ InFault fr' := by
    rcases hok with hhdr | hbody | hclosed | hfault
    · exact frmByte_of_inHdr hhdr h
    · exact (frmByte_of_inBody hbody h).imp_right .inl
    · exact absurd hclosed.1 hnclosed
    · exact absurd hfault.1 hnfault
  have hrest : Written fr' ∧ Memory.wf fr'.buf = true := ⟨frmByte_written h hwritten, frmByte_wf h hwf⟩
  rcases hcases with hhdr | hbody | hfault
  · exact ⟨⟨.inl hhdr, hrest⟩, by simp [hhdr.1]⟩
  · exact ⟨⟨.inr (.inl hbody), hrest⟩, by simp [hbody.1]⟩
  · exact ⟨⟨.inr (.inr (.inr hfault)), hrest⟩, by simp [hfault.1]⟩

/-- The loop of rule R122 keeps what holds between the bytes of a chunk. -/
theorem pushBytes_pushInv {fr fr' : Framer} {bs : Bytes} {es : List Event} (hinv : PushInv fr)
    (h : pushBytes fr bs = .ok (fr', es)) : PushInv fr' :=
  pushBytes_induction (P := PushInv) (fun _ _ _ _ hP hnfault hbyte => frmByte_pushInv hP hnfault hbyte) hinv h

/-- A framer with nothing collected has written every byte that rule R28 calls meaningful. -/
theorem written_of_cnt_eq_zero {fr : Framer} (hcnt : fr.cnt = 0) : Written fr := by
  intro a ha
  simp [hcnt] at ha

/-- FRM_EOS either refuses and keeps the framer or closes it with nothing collected (rules R127, R128). -/
theorem framerEos_fst (fr : Framer) :
    ((fr.st = .closed ∨ fr.st = .fault) ∧ (framerEos fr).1 = fr) ∨
    ((fr.st = .hdr ∨ fr.st = .body) ∧ (framerEos fr).1 = { fr with cnt := 0, len := 0, st := .closed }) := by
  cases hst : fr.st with
  | closed | fault => exact .inl ⟨by simp, by simp [framerEos, hst]⟩
  | hdr | body => exact .inr ⟨by simp, by simp [framerEos, hst]⟩

/-- Rule R29: FRM_CAUSE is NONE in every state but FAULT. -/
theorem cause_eq_ok_or_fault {fr : Framer} (hok : FramerOk fr) : fr.cause = .ok ∨ fr.st = .fault := by
  rcases hok with ⟨-, -, -, hcause⟩ | ⟨-, -, -, -, -, hcause, -⟩ | ⟨-, -, -, hcause⟩ | ⟨hst, -⟩
  · exact .inl hcause
  · exact .inl hcause
  · exact .inl hcause
  · exact .inr hst

/-- FRM_EOS keeps the invariant of rule R29. -/
theorem framerEos_frmInv {fr : Framer} (hinv : FrmInv fr) : FrmInv (framerEos fr).1 := by
  rcases framerEos_fst fr with ⟨-, heq⟩ | ⟨hopen, heq⟩ <;> rw [heq]
  · exact hinv
  · obtain ⟨hok, -, hwf⟩ := hinv
    have hcause : fr.cause = .ok := (cause_eq_ok_or_fault hok).resolve_right <| by
      rcases hopen with hst | hst <;> simp [hst]
    exact ⟨.inr (.inr (.inl ⟨rfl, rfl, rfl, hcause⟩)), written_of_cnt_eq_zero rfl, hwf⟩

/-- Operation 3 keeps the invariant of rule R29, whatever its chunk. -/
theorem framerPush_frmInv {fr fr' : Framer} {chunk : Bytes} {rep : Reply} (hinv : FrmInv fr)
    (h : framerPush fr chunk = .ok (fr', rep)) : FrmInv fr' := by
  rcases framerPush_cases fr chunk with
    ⟨-, hr⟩ | ⟨-, -, hr⟩ | ⟨-, -, hr⟩ | ⟨-, hopen, ⟨e, -, hr⟩ | ⟨fr₁, es, hloop, hr⟩⟩ <;> rw [hr] at h
  · obtain rfl : (framerEos fr).1 = fr' := congrArg Prod.fst (Except.ok.inj h)
    exact framerEos_frmInv hinv
  · cases h; exact hinv
  · cases h; exact hinv
  · cases h
  · cases h
    have hnclosed : fr.st ≠ .closed := by rcases hopen with hst | hst <;> simp [hst]
    exact (pushBytes_pushInv ⟨hinv, hnclosed⟩ hloop).1

/-- Rule R127: in FAULT operation 3 keeps the framer, whatever its chunk. -/
theorem framerPush_of_fault {fr : Framer} (hst : fr.st = .fault) (chunk : Bytes) :
    framerPush fr chunk = .ok (fr, .refused .faulted) := by
  cases chunk <;> simp [framerPush, framerEos, pushChunk, hst]

/-- Rule R29 (a) with an empty buffer is the whole invariant. -/
theorem frmInv_of_empty {fr : Framer} (hhdr : InHdr fr) (hcnt : fr.cnt = 0) (hbuf : fr.buf = []) : FrmInv fr :=
  ⟨.inl hhdr, written_of_cnt_eq_zero hcnt, by rw [hbuf]; rfl⟩

/-- The reset input establishes the invariant from every framer (rules R29, R170). -/
theorem frmInv_toReset (fr : Framer) : FrmInv fr.toReset :=
  frmInv_of_empty ⟨rfl, Nat.zero_le 3, rfl, rfl⟩ rfl rfl

/-- A RESULT row is the read of the latest code, and a STATE row that of FRM_ST (rules R24, R30, R141). -/
theorem exec_of_isRead {i : Instr} (hi : i.format = .result ∨ i.format = .state) :
    (∃ row, ∀ s : State, exec i s = readResult row s) ∨ (∃ row, ∀ s : State, exec i s = readState row s) := by
  cases i with
  | resultOk => exact .inl ⟨.ok, fun _ => rfl⟩
  | resultBodyTooLarge => exact .inl ⟨.bodyTooLarge, fun _ => rfl⟩
  | resultInvalidLength => exact .inl ⟨.invalidLength, fun _ => rfl⟩
  | resultShortFrame => exact .inl ⟨.shortFrame, fun _ => rfl⟩
  | resultBadOp => exact .inl ⟨.badOp, fun _ => rfl⟩
  | resultNotWF => exact .inl ⟨.notWF, fun _ => rfl⟩
  | resultClosed => exact .inl ⟨.closed, fun _ => rfl⟩
  | resultFaulted => exact .inl ⟨.faulted, fun _ => rfl⟩
  | frmStHdr => exact .inr ⟨.hdr, fun _ => rfl⟩
  | frmStBody => exact .inr ⟨.body, fun _ => rfl⟩
  | frmStClosed => exact .inr ⟨.closed, fun _ => rfl⟩
  | frmStFault => exact .inr ⟨.fault, fun _ => rfl⟩
  | _ => simp [Instr.format] at hi

/-- Every instruction is pure, an operation of FRM, or a read. -/
theorem isPure_or_isFrm_or_isRead (i : Instr) :
    isPure i = true ∨ isFrm i = true ∨ i.format = .result ∨ i.format = .state := by
  by_cases hpure : isPure i = true
  · exact .inl hpure
  · by_cases hread : i.format = .result ∨ i.format = .state
    · exact .inr (.inr hread)
    · exact .inr (.inl (by simpa [isFrm, hpure] using hread))

/-- Every operation of FRM is operation 3 on some chunk; FRM_EOS is the one on the empty chunk (rules R68, R70). -/
theorem exec_of_isFrm_push {i : Instr} (hi : isFrm i = true) :
    ∃ chunk, ∀ s : State, exec i s = s.finishFrm (framerPush s.frm chunk) := by
  rcases isFrm_cases hi with ⟨chunk, rfl⟩ | rfl | ⟨f, rfl⟩
  · exact ⟨chunk, fun _ => rfl⟩
  · exact ⟨[], fun _ => rfl⟩
  · exact ⟨frameBytes f, fun _ => rfl⟩

/-- What an instruction can do to the framer: nothing, or operation 3 on some chunk. -/
theorem exec_frm_cases {i : Instr} {s t : State} (h : exec i s = .next t) :
    t.frm = s.frm ∨ ∃ chunk rep, framerPush s.frm chunk = .ok (t.frm, rep) := by
  rcases isPure_or_isFrm_or_isRead i with hpure | hfrm | hread
  · obtain ⟨r, hr⟩ := exec_of_isPure hpure
    cases (hr s).symm.trans h
    exact .inl rfl
  · obtain ⟨chunk, hpush⟩ := exec_of_isFrm_push hfrm
    obtain ⟨fr, rep, hop, rfl⟩ := State.finishFrm_next ((hpush s).symm.trans h)
    exact .inr ⟨chunk, rep, hop⟩
  · rcases exec_of_isRead hread with ⟨row, hr⟩ | ⟨row, hr⟩ <;> cases (hr s).symm.trans h <;> exact .inl rfl

/-- What a step can do to the framer: nothing, operation 3 on some chunk, or the reset its input asks for. -/
theorem step_frm_cases {s t : State} (h : step s = .next t) :
    t.frm = s.frm ∨ (∃ chunk rep, framerPush s.frm chunk = .ok (t.frm, rep)) ∨
      (s.inbox.head? = some .reset ∧ t.frm = s.frm.toReset) := by
  unfold step at h
  split at h
  · cases h; exact .inl rfl
  · next hin => cases h; exact .inr (.inr ⟨by simp [hin], rfl⟩)
  · cases h; exact .inl rfl
  · split at h
    · exact (exec_frm_cases h).imp_right .inl
    · cases h

end Sys2Proof.Machine

namespace Sys2Proof.Proofs

open Machine Safety

/-- Settles O31: a step keeps the framer, resets it, or is operation 3, whose loop keeps the invariant byte by byte. -/
theorem everyStepKeepsTheInvariant : Obligations.EveryStepKeepsTheInvariant := by
  intro s t hinv hstep
  rcases step_frm_cases hstep with hkept | ⟨chunk, rep, hpush⟩ | ⟨-, hreset⟩
  · rwa [hkept]
  · exact framerPush_frmInv hinv hpush
  · rw [hreset]; exact frmInv_toReset s.frm

/-- Settles O34: under rule R29 only FAULT has a cause, and there operation 3 keeps the framer. -/
theorem causeIsKeptUntilReset : Obligations.CauseIsKeptUntilReset := by
  rintro s t ⟨hok, -⟩ hcause hnreset hstep
  have hst : s.frm.st = .fault := (cause_eq_ok_or_fault hok).resolve_left hcause
  rcases step_frm_cases hstep with hkept | ⟨chunk, rep, hpush⟩ | ⟨hreset, -⟩
  · rw [hkept]
  · have hkept : s.frm = t.frm :=
      congrArg Prod.fst (Except.ok.inj ((framerPush_of_fault hst chunk).symm.trans hpush))
    rw [hkept]
  · exact absurd hreset hnreset

/-- Settles O1: each of the four registers at reset is its number in rule R34's table. -/
theorem resetLeavesTheFramerEmpty : Obligations.ResetLeavesTheFramerEmpty := ⟨rfl, rfl, rfl, rfl⟩

/-- Settles O32: the framer at reset is in case (a) of rule R29 with an empty buffer. -/
theorem resetMeetsTheInvariant : Obligations.ResetMeetsTheInvariant := by
  have hhdr : InHdr State.reset.frm := ⟨rfl, Nat.zero_le 3, rfl, rfl⟩
  exact ⟨hhdr, frmInv_of_empty hhdr rfl rfl⟩

/-- Settles O35: the reply of a pure instruction is a function of its operands. -/
theorem pureInstructionsUseOperandsAlone : Obligations.PureInstructionsUseOperandsAlone :=
  fun _ hi => exec_of_isPure hi

end Sys2Proof.Proofs


/-! PROOF. The layout of rule R61 read back, the reserved operation codes of rule R72, short reads of rules R68 and R128. -/

namespace Sys2Proof.Machine

/-- Rule R5: neighbouring slices join. -/
theorem slice_append_slice (b : Bytes) {i j k : Nat} (hij : i ≤ j) (hjk : j ≤ k) :
    slice b i j ++ slice b j k = slice b i k := by
  obtain ⟨m, rfl⟩ := Nat.exists_eq_add_of_le hij
  obtain ⟨n, rfl⟩ := Nat.exists_eq_add_of_le hjk
  have hlen : i + m + n - i = m + n := by omega
  simp [slice, hlen, List.take_add]

theorem slice_zero_length (b : Bytes) : slice b 0 b.length = b := by simp [slice]

theorem slice_length {b : Bytes} {i j : Nat} (hj : j ≤ b.length) : (slice b i j).length = j - i := by
  simp only [slice, List.length_take, List.length_drop]
  omega

/-- The last two bytes, one at a time, are the slice of the pad. -/
theorem byteAt_pair_eq_slice {b : Bytes} (hb : 2 ≤ b.length) :
    [byteAt b (b.length - 2), byteAt b (b.length - 1)] = slice b (b.length - 2) b.length := by
  have hlt : b.length - 2 < b.length := by omega
  have hlt' : b.length - 2 + 1 < b.length := by omega
  have hlast : b.length - 1 = b.length - 2 + 1 := by omega
  have hend : b.length - 2 + 1 + 1 = b.length := by omega
  rw [slice, List.drop_eq_getElem_cons hlt, List.drop_eq_getElem_cons hlt', hend, List.drop_length, hlast]
  simp [byteAt, hlt, hlt', Nat.sub_sub_self hb]

/-- Rule R61: laying out the fields read from a byte string gives the byte string back, pad included. -/
theorem frameBytes_frameOfBytes {b : Bytes} (hb : 14 ≤ b.length) : frameBytes (frameOfBytes b) = b := by
  have hfield (i : Nat) (hi : i + 4 ≤ 14) : le32 (u32le (slice b i (i + 4))) = slice b i (i + 4) :=
    le32_u32le ((slice_length (by omega)).trans (by omega))
  calc frameBytes (frameOfBytes b)
    _ = le32 (u32le (slice b 0 4)) ++ le32 (u32le (slice b 4 8)) ++ le32 (u32le (slice b 8 12)) ++
          slice b 12 (b.length - 2) ++ [byteAt b (b.length - 2), byteAt b (b.length - 1)] := rfl
    _ = slice b 0 4 ++ slice b 4 8 ++ slice b 8 12 ++ slice b 12 (b.length - 2) ++
          slice b (b.length - 2) b.length := by
      rw [hfield 0 (by omega), hfield 4 (by omega), hfield 8 (by omega), byteAt_pair_eq_slice (by omega)]
    _ = slice b 0 b.length := by
      rw [slice_append_slice b (by omega) (by omega), slice_append_slice b (by omega) (by omega),
        slice_append_slice b (by omega) (by omega), slice_append_slice b (by omega) (by omega)]
    _ = b := slice_zero_length b

/-- Rule R61: a read of 14 bytes or more has the layout of a frame. -/
theorem decodeWire_of_long (path : RxPath) {b : Bytes} (hb : 14 ≤ b.length) :
    decodeWire path b = .frame path (frameOfBytes b) := if_pos hb

/-- Rule R68: a shorter read on the direct path is DECODE's operand. -/
theorem decodeWire_direct_of_short {b : Bytes} (hb : b.length ≤ 13) : decodeWire .direct b = .decode b :=
  if_neg (show ¬14 ≤ b.length by omega)

/-- Rules R68 and R128: a shorter read on the framed path is operation 3, which is FRM_EOS on no bytes. -/
theorem decodeWire_framed_of_short {b : Bytes} (hb : b.length ≤ 13) :
    decodeWire .framed b = if b.isEmpty then .frmEos else .frmPush b :=
  if_neg (show ¬14 ≤ b.length by omega)

/-- Rule R12: a transfer at the head of the inputs is performed as its instruction. -/
theorem step_of_decode {s : State} {tr : Transfer} {rest : List Input} {i : Instr}
    (hin : s.inbox = .transfer tr :: rest) (hdecode : decode tr = .ok i) : step s = exec i s.pop := by
  simp [step, hin, hdecode]

/-- Rule R72: whatever the operands, codes 4 to 7 are refused. -/
theorem exec_decodeOp_reserved {code : BitVec 3} (hcode : 4 ≤ code.toNat) (vsel : BitVec 2) (size : U32) (id type : I32)
    (bytes : Bytes) (s : State) :
    exec (decodeOp code vsel size id type bytes) s = .next (s.reply (.refused .badOp)) := by
  have hcases : code = 4 ∨ code = 5 ∨ code = 6 ∨ code = 7 := by bv_omega
  rcases hcases with rfl | rfl | rfl | rfl <;> rfl

/-- Rules R66 and R67: of the variant, CONSTRUCT leaves in the packet its type field alone. -/
theorem exec_construct {v : Variant} {id : I32} {body : Bytes} (hbody : body.length ≤ 4096) (s : State) :
    exec (.construct v id body) s = .next (s.reply (.okPacket (packetOf (typeField v) id body))) := by
  simp [exec, execConstruct, constructPacket_ok hbody, packetReply]

/-- Rule R100: ENCODE lays out the frame of a well-formed packet. -/
theorem exec_encode {p : Packet} (hbody : p.body.length ≤ 4096) (s : State) :
    exec (.encode p) s = .next (s.reply (.okFrame (frameOfPacket p))) := by
  simp [exec, execEncode, encodePacket_ok hbody, frameReply]

end Sys2Proof.Machine

namespace Sys2Proof.Proofs

open Machine

/-- Settles O48: the frame is the one of rule R61's layout, which loses no byte. -/
theorem wireBytesAreKept : Obligations.WireBytesAreKept := by
  intro path b hb
  exact ⟨frameOfBytes b, congrArg Except.ok (decodeWire_of_long path hb),
    congrArg (Transfer.wire path) (frameBytes_frameOfBytes hb)⟩

/-- Settles O16: AuthResponse and ExecCommand have one type field, so both give the same frame. -/
theorem noDecoderRecoversTheVariant : Obligations.NoDecoderRecoversTheVariant := by
  rintro ⟨g, hg⟩
  have hrecovered (v : Variant) : g (frameOfPacket (packetOf (typeField v) 0 [])) = v :=
    hg v 0 [] _ _ State.reset (exec_construct (Nat.zero_le _) _) (exec_encode (Nat.zero_le _) _)
  have hshared : typeField .authResponse = typeField .execCommand := rfl
  have hconfused := hrecovered .authResponse
  rw [hshared, hrecovered .execCommand] at hconfused
  cases hconfused

/-- Settles O18: the transfer's instruction is a reserved row, which only refuses. -/
theorem reservedCodesAreRefused : Obligations.ReservedCodesAreRefused := by
  intro code vsel size id type bytes s rest hcode hin
  have hstep : step s = .next (s.pop.reply (.refused .badOp)) :=
    (step_of_decode hin rfl).trans (exec_decodeOp_reserved hcode vsel size id type bytes s.pop)
  exact ⟨_, hstep, rfl, by simp [hin], rfl, rfl⟩

/-- Settles O49: a read of fewer than 14 bytes is no frame, and on the framed path only its emptiness tells. -/
theorem shortReadsAreOperands : Obligations.ShortReadsAreOperands := by
  intro b hb
  refine ⟨congrArg Except.ok (decodeWire_direct_of_short hb), fun hne => ?_, fun hnil => ?_⟩
  · simp [decode, decodeWire_framed_of_short hb, hne]
  · simp [decode, decodeWire_framed_of_short hb, List.isEmpty_iff.mpr hnil]

end Sys2Proof.Proofs

/-! PROOF. CONSTRUCT of rules R90 to R92: its packet, its fault, and the size field ENCODE writes for its packet. -/

namespace Sys2Proof.Machine

/-- Two replies added to one state are told apart. -/
theorem State.reply_injective (s : State) : Function.Injective s.reply := fun r r' h => by
  have hreplies : s.replies ++ [r] = s.replies ++ [r'] := congrArg State.replies h
  simpa using hreplies

/-- Rule R71: on operation code 0 the selector names the variant, and only `id` and the bytes are read besides. -/
theorem decode_op_construct (vsel : BitVec 2) (size : U32) (id type : I32) (bytes : Bytes) :
    decode (.op 0 vsel size id type bytes) = .ok (.construct (variantOfVsel vsel) id bytes) := rfl

/-- Rules R8 and R66: the type field, read as signed, is the variant's wire code. -/
theorem sint32_typeField (v : Variant) : sint32 (typeField v) = wireCode v := by
  cases v <;> rfl

/-- Rule R90: the stored size of a body within the bound does not wrap. -/
theorem packetOf_size_toNat {body : Bytes} (hbody : body.length ≤ 4096) (type id : I32) :
    (packetOf type id body).size.toNat = body.length + 10 :=
  (BitVec.toNat_ofNat _ 32).trans (Nat.mod_eq_of_lt (show body.length + 10 < 2 ^ 32 by omega))

/-- Rule R90: the one fault of CONSTRUCT. -/
theorem exec_construct_of_long {v : Variant} {id : I32} {body : Bytes} (hbody : 4097 ≤ body.length) (s : State) :
    exec (.construct v id body) s = .next (s.reply (.fault { fault := .bodyTooLarge, len := body.length })) := by
  simp [exec, execConstruct, constructPacket_error hbody, packetReply]

/-- Rule R90: CONSTRUCT returns a packet on a body within the bound only, and then that of `packetOf`. -/
theorem exec_construct_okPacket {v : Variant} {id : I32} {body : Bytes} {p : Packet} {s : State}
    (h : exec (.construct v id body) s = .next (s.reply (.okPacket p))) :
    body.length ≤ 4096 ∧ p = packetOf (typeField v) id body := by
  rcases Nat.lt_or_ge 4096 body.length with hlong | hbody
  · have hreply := s.reply_injective (Host.Outcome.next.inj ((exec_construct_of_long hlong s).symm.trans h))
    cases hreply
  · have hreply := s.reply_injective (Host.Outcome.next.inj ((exec_construct hbody s).symm.trans h))
    exact ⟨hbody, (Reply.okPacket.inj hreply).symm⟩

/-- Rule R61: the size field is the first four bytes of a frame. -/
theorem u32le_slice_frameBytes (f : Frame) : u32le (slice (frameBytes f) 0 4) = f.size :=
  u32le_le32 f.size

end Sys2Proof.Machine

namespace Sys2Proof.Proofs

open Machine

/-- Settles O9: the selector names the variant, and the body's length alone decides between the packet and the fault. -/
theorem constructGivesThePacket : Obligations.ConstructGivesThePacket := by
  intro id body s
  refine ⟨fun size type => ?_, fun hbody v => ?_, fun hlong v => exec_construct_of_long hlong s⟩
  · exact ⟨decode_op_construct 0 size id type body, decode_op_construct 1 size id type body,
      decode_op_construct 2 size id type body, decode_op_construct 3 size id type body⟩
  · exact ⟨_, exec_construct hbody s, packetOf_size_toNat hbody _ id, rfl, rfl,
      (sint32_typeField v).trans (by cases v <;> rfl)⟩

/-- Settles O12: the packet is within ENCODE's bound, and ENCODE computes its size field as CONSTRUCT its stored size. -/
theorem constructedSizeIsTheWireSize : Obligations.ConstructedSizeIsTheWireSize := by
  intro v id body p s s' h
  obtain ⟨hbody, rfl⟩ := exec_construct_okPacket h
  exact ⟨_, exec_encode hbody s', u32le_slice_frameBytes _⟩

end Sys2Proof.Proofs

/-! PROOF. ENCODE of rules R100 to R103: its frame byte by byte, its size field, its refusal. -/

namespace Sys2Proof.Machine

/-- Rule R7: a word below 2^16 has its two upper bytes zero. -/
theorem le32_ofNat_of_lt {n : Nat} (hn : n < 65536) :
    le32 (BitVec.ofNat 32 n) = [BitVec.ofNat 8 n, BitVec.ofNat 8 (n / 256), 0, 0] := by
  simp only [le32, List.cons.injEq, and_true, ← BitVec.toNat_inj, BitVec.extractLsb'_toNat,
    Nat.shiftRight_eq_div_pow, BitVec.ofNat_eq_ofNat, BitVec.toNat_ofNat]
  omega

/-- Rule R70: on operation code 1 the operand lines are the packet, and the selector is not read. -/
theorem decode_op_encode (vsel : BitVec 2) (p : Packet) :
    decode (.op 1 vsel p.size p.id p.type p.body) = .ok (.encode p) := rfl

/-- Rule R103: the one refusal of ENCODE. -/
theorem exec_encode_of_long {p : Packet} (hbody : 4097 ≤ p.body.length) (s : State) :
    exec (.encode p) s = .next (s.reply (.refused .notWF)) := by
  simp [exec, execEncode, encodePacket_error hbody, frameReply]

/-- Rule R100: the frame byte by byte; its size field is below 2^16. -/
theorem frameOfPacket_eq_bytes {p : Packet} (hbody : p.body.length ≤ 4096) :
    frameOfPacket p =
      [BitVec.ofNat 8 (p.body.length + 10), BitVec.ofNat 8 ((p.body.length + 10) / 256), 0, 0]
        ++ [p.id.extractLsb' 0 8, p.id.extractLsb' 8 8, p.id.extractLsb' 16 8, p.id.extractLsb' 24 8]
        ++ [p.type.extractLsb' 0 8, p.type.extractLsb' 8 8, p.type.extractLsb' 16 8, p.type.extractLsb' 24 8]
        ++ p.body ++ [0, 0] := by
  have hsize := le32_ofNat_of_lt (show p.body.length + 10 < 65536 by omega)
  rw [← hsize]
  rfl

/-- Rule R102: the stored size has no part in the frame. -/
theorem frameOfPacket_with_size (p : Packet) (z : U32) : frameOfPacket { p with size := z } = frameOfPacket p := rfl

/-- Rule R101: the size field of the frame is its length less 4. -/
theorem frameOfPacket_size_field {p : Packet} (hbody : p.body.length ≤ 4096) :
    (u32le (slice (frameOfPacket p) 0 4)).toNat = (frameOfPacket p).length - 4 :=
  calc (u32le (slice (frameOfPacket p) 0 4)).toNat
    _ = (packetOf p.type p.id p.body).size.toNat := congrArg BitVec.toNat (u32le_slice_frameBytes _)
    _ = p.body.length + 10 := packetOf_size_toNat hbody p.type p.id
    _ = (frameOfPacket p).length - 4 := by rw [frameOfPacket_length]; omega

end Sys2Proof.Machine

namespace Sys2Proof.Proofs

open Machine

/-- Settles O10: the body's length alone decides between the frame, whose bytes are those of its layout, and the refusal. -/
theorem encodeLaysOutTheFrame : Obligations.EncodeLaysOutTheFrame := by
  intro p s
  exact ⟨fun vsel => decode_op_encode vsel p,
    fun hbody => ⟨_, exec_encode hbody s, frameOfPacket_eq_bytes hbody⟩,
    fun hlong => exec_encode_of_long hlong s, rfl⟩

/-- Settles O11: the frame of the packet as it stands serves for every stored size, and the bounds follow from its length. -/
theorem encodedLengthAndSizeField : Obligations.EncodedLengthAndSizeField := by
  intro p hbody
  have hencode (z : U32) (s : State) :
      exec (.encode { p with size := z }) s = .next (s.reply (.okFrame (frameOfPacket p))) := by
    rw [← frameOfPacket_with_size p z]
    exact exec_encode hbody s
  have hlen := frameOfPacket_length p
  exact ⟨_, hencode, hlen, by omega, by omega, frameOfPacket_size_field hbody, by omega, by omega⟩

end Sys2Proof.Proofs

/-! PROOF. DECODE of rules R110 to R114: its fields, its faults by length, the pad it does not read, and what it makes
of ENCODE's frames. -/

namespace Sys2Proof.Machine

/-- Rule R5: index `k` of a slice is index `i + k` of the whole. -/
theorem getElem?_slice (b : Bytes) {i j k : Nat} (hk : i + k < j) : (slice b i j)[k]? = b[i + k]? := by
  rw [slice, List.getElem?_take_of_lt (by omega), List.getElem?_drop]

theorem byteAt_slice (b : Bytes) {i j k : Nat} (hk : i + k < j) : byteAt (slice b i j) k = b.getD (i + k) 0 := by
  rw [byteAt, List.getD_eq_getElem?_getD, getElem?_slice b hk, List.getD_eq_getElem?_getD]

/-- Rule R5: a slice that ends within the first part does not see what follows it. -/
theorem slice_append_of_le (b c : Bytes) {i j : Nat} (hj : j ≤ b.length) : slice (b ++ c) i j = slice b i j := by
  rw [slice, slice, ← List.drop_take, ← List.drop_take, List.take_append_of_le_length hj]

/-- Rule R7: a field of four bytes, each at its weight. -/
theorem u32le_slice_toNat (b : Bytes) (i : Nat) :
    (u32le (slice b i (i + 4))).toNat = (b.getD i 0).toNat + 256 * (b.getD (i + 1) 0).toNat
      + 65536 * (b.getD (i + 2) 0).toNat + 16777216 * (b.getD (i + 3) 0).toNat := by
  have hbyte (k : Nat) (hk : k < 4) : byteAt (slice b i (i + 4)) k = b.getD (i + k) 0 := byteAt_slice b (by omega)
  calc (u32le (slice b i (i + 4))).toNat
    _ = (u32le [byteAt (slice b i (i + 4)) 0, byteAt (slice b i (i + 4)) 1, byteAt (slice b i (i + 4)) 2,
          byteAt (slice b i (i + 4)) 3]).toNat := rfl
    _ = (b.getD i 0).toNat + 256 * (b.getD (i + 1) 0).toNat + 65536 * (b.getD (i + 2) 0).toNat
          + 16777216 * (b.getD (i + 3) 0).toNat := by
      rw [hbyte 0 (by omega), hbyte 1 (by omega), hbyte 2 (by omega), hbyte 3 (by omega), u32le_toNat, Nat.add_zero]

/-- Rule R7: writing out a field that was read gives its four bytes back. -/
theorem le32_u32le_slice {b : Bytes} {i : Nat} (hi : i + 4 ≤ b.length) :
    le32 (u32le (slice b i (i + 4))) = slice b i (i + 4) :=
  le32_u32le ((slice_length hi).trans (Nat.add_sub_cancel_left i 4))

/-- The last two bytes, split off and put back. -/
theorem slice_append_byteAt_pair {b : Bytes} (hb : 2 ≤ b.length) :
    slice b 0 (b.length - 2) ++ [byteAt b (b.length - 2), byteAt b (b.length - 1)] = b := by
  rw [byteAt_pair_eq_slice hb, slice_append_slice b (Nat.zero_le _) (Nat.sub_le _ _), slice_zero_length]

/-- Rule R110: DECODE is a function of its buffer, and adds its one reply to any state. -/
theorem exec_decode_eq (b : Bytes) (s : State) :
    exec (.decode b) s = .next (s.reply (packetReply (decodeBuffer b))) := rfl

/-- Rule R110: DECODE completes within the bounds, whatever the bytes. -/
theorem exec_decode {b : Bytes} (hmin : 14 ≤ b.length) (hmax : b.length ≤ 4106) (s : State) :
    exec (.decode b) s = .next (s.reply (.okPacket (packetOfBytes b))) := by
  rw [exec_decode_eq, decodeBuffer_ok hmin hmax, packetReply]

/-- Rule R112: DECODE's faults are those of the admission test. -/
theorem exec_decode_of_lengthFault {b : Bytes} {f : FaultName} (hfault : lengthFault b.length = some f) (s : State) :
    exec (.decode b) s = .next (s.reply (.fault { fault := f, len := b.length })) := by
  rw [exec_decode_eq, decodeBuffer_error hfault, packetReply]

/-- Rule R70: on operation code 2 the bytes alone are read. -/
theorem decode_op_decode (vsel : BitVec 2) (size : U32) (id type : I32) (b : Bytes) :
    decode (.op 2 vsel size id type b) = .ok (.decode b) := rfl

/-- Rule R65: every field of DECODE's packet lies before the last two bytes. -/
theorem packetOfBytes_append_pair {b : Bytes} (hb : 12 ≤ b.length) (x y : Byte) :
    packetOfBytes (b ++ [x, y]) =
      { size := u32le (slice b 0 4), id := i32le (slice b 4 8), type := i32le (slice b 8 12),
        body := slice b 12 b.length } := by
  have hfield (i j : Nat) (hj : j ≤ b.length) : slice (b ++ [x, y]) i j = slice b i j := slice_append_of_le b [x, y] hj
  have hend : (b ++ [x, y]).length - 2 = b.length := by simp
  simp only [packetOfBytes, Config.hdrBytes, Config.padBytes, hend]
  rw [hfield 0 4 (by omega), hfield 4 8 (by omega), hfield 8 12 hb, hfield 12 b.length le_rfl]

/-- Rule R61: DECODE reads the fields that the layout wrote, for every pad. -/
theorem packetOfBytes_frameBytes (f : Frame) :
    packetOfBytes (frameBytes f) = { size := f.size, id := f.id, type := f.type, body := f.body } := by
  have hlen : (frameBytes f).length - 2 - 12 = f.body.length := by rw [frameBytes_length]; omega
  have hbody : slice (frameBytes f) 12 ((frameBytes f).length - 2) = f.body :=
    calc slice (frameBytes f) 12 ((frameBytes f).length - 2)
      _ = (f.body ++ [f.pad0, f.pad1]).take f.body.length := congrArg (List.take · _) hlen
      _ = f.body := List.take_left
  calc packetOfBytes (frameBytes f)
    _ = { size := u32le (le32 f.size), id := u32le (le32 f.id), type := u32le (le32 f.type),
          body := slice (frameBytes f) 12 ((frameBytes f).length - 2) } := rfl
    _ = { size := f.size, id := f.id, type := f.type, body := f.body } := by simp only [u32le_le32, hbody]

/-- Rule R114: what DECODE gives for a packet's frame is the packet with the size that CONSTRUCT would store. -/
theorem packetOfBytes_frameOfPacket (p : Packet) : packetOfBytes (frameOfPacket p) = packetOf p.type p.id p.body :=
  packetOfBytes_frameBytes _

/-- Rule R113: what follows a frame in one read goes to the packet's body, its last two bytes taken as the pad. -/
theorem packetOfBytes_frameOfPacket_append (p : Packet) {g : Bytes} (hg : 2 ≤ g.length) :
    packetOfBytes (frameOfPacket p ++ g) =
      { size := (packetOf p.type p.id p.body).size, id := p.id, type := p.type,
        body := p.body ++ [0, 0] ++ slice g 0 (g.length - 2) } := by
  have hframe : frameOfPacket p ++ g =
      frameBytes { size := (packetOf p.type p.id p.body).size, id := p.id, type := p.type,
                   body := p.body ++ [0, 0] ++ slice g 0 (g.length - 2),
                   pad0 := byteAt g (g.length - 2), pad1 := byteAt g (g.length - 1) } := by
    conv_lhs => rw [← slice_append_byteAt_pair hg]
    simp only [frameOfPacket, frameBytes, packetOf, List.append_assoc]
  rw [hframe, packetOfBytes_frameBytes]

/-- Rule R114, the other direction: ENCODE of what DECODE read writes the size field and the pad anew. -/
theorem frameOfPacket_packetOfBytes {b : Bytes} (hb : 14 ≤ b.length) :
    frameOfPacket (packetOfBytes b) = le32 (BitVec.ofNat 32 (b.length - 4)) ++ slice b 4 (b.length - 2) ++ [0, 0] := by
  have hsize : (packetOfBytes b).body.length + 10 = b.length - 4 := by rw [packetOfBytes_body_length hb]; omega
  have hfields : le32 (u32le (slice b 4 8)) ++ le32 (u32le (slice b 8 12)) ++ slice b 12 (b.length - 2) =
      slice b 4 (b.length - 2) := by
    rw [le32_u32le_slice (i := 4) (by omega), le32_u32le_slice (i := 8) (by omega),
      slice_append_slice b (by omega) (by omega), slice_append_slice b (by omega) (by omega)]
  calc frameOfPacket (packetOfBytes b)
    _ = le32 (BitVec.ofNat 32 ((packetOfBytes b).body.length + 10)) ++ le32 (u32le (slice b 4 8)) ++
          le32 (u32le (slice b 8 12)) ++ slice b 12 (b.length - 2) ++ [0, 0] := rfl
    _ = le32 (BitVec.ofNat 32 (b.length - 4)) ++ slice b 4 (b.length - 2) ++ [0, 0] := by
      rw [hsize, ← hfields]
      simp only [List.append_assoc]

/-- Rule R103: ENCODE returns a frame for a well-formed packet only, and then that of `frameOfPacket`. -/
theorem exec_encode_okFrame {p : Packet} {f : Bytes} {s : State}
    (h : exec (.encode p) s = .next (s.reply (.okFrame f))) : p.body.length ≤ 4096 ∧ f = frameOfPacket p := by
  rcases Nat.lt_or_ge 4096 p.body.length with hlong | hbody
  · have hreply := s.reply_injective (Host.Outcome.next.inj ((exec_encode_of_long hlong s).symm.trans h))
    cases hreply
  · have hreply := s.reply_injective (Host.Outcome.next.inj ((exec_encode hbody s).symm.trans h))
    exact ⟨hbody, (Reply.okFrame.inj hreply).symm⟩

end Sys2Proof.Machine

namespace Sys2Proof.Proofs

open Machine

/-- Settles O15: the layout is read back field by field, and writing out the fields that were read gives back the bytes
between the size field and the pad. -/
theorem encodeAndDecodeRoundTrip : Obligations.EncodeAndDecodeRoundTrip := by
  refine ⟨fun p s hbody => ?_, fun p s hmin hmax => ?_, fun b s hmin hmax => ?_⟩
  · have hlen := frameOfPacket_length p
    have hdecode : exec (.decode (frameOfPacket p)) s = .next (s.reply (.okPacket (packetOf p.type p.id p.body))) := by
      rw [exec_decode (by omega) (by omega), packetOfBytes_frameOfPacket]
    refine ⟨_, _, exec_encode (by omega) s, hdecode, rfl, rfl, rfl, packetOf_size_toNat (by omega) p.type p.id, ?_⟩
    rintro ⟨v, id, body, hconstruct⟩
    obtain ⟨-, rfl⟩ := exec_construct_okPacket hconstruct
    rfl
  · have hlen := frameOfPacket_length p
    have hfault := (lengthFault_invalidLength_iff (frameOfPacket p).length).mpr (.inr (by omega))
    exact ⟨_, exec_encode hmax s, by omega, by omega, exec_decode_of_lengthFault hfault s⟩
  · have hlen := packetOfBytes_body_length hmin
    exact ⟨_, _, exec_decode hmin hmax s, exec_encode (by omega) s, frameOfPacket_packetOfBytes hmin⟩

/-- Settles O13: the length alone decides between the packet and the two faults, and each field is a slice. -/
theorem decodeReadsTheFields : Obligations.DecodeReadsTheFields := by
  intro b s
  refine ⟨fun vsel size id type => decode_op_decode vsel size id type b, fun hmin hmax => ?_, fun hlen => ?_,
    fun hlen => ?_⟩
  · exact ⟨_, exec_decode hmin hmax s, u32le_slice_toNat b 0, u32le_slice_toNat b 4, u32le_slice_toNat b 8,
      packetOfBytes_body_length hmin, fun k hk => getElem?_slice b (show 12 + k < b.length - 2 by omega)⟩
  · exact exec_decode_of_lengthFault ((lengthFault_invalidLength_iff _).mpr hlen) s
  · exact exec_decode_of_lengthFault ((lengthFault_shortFrame_iff _).mpr hlen) s

/-- Settles O14: the pad adds to the length, the same for all its values, and no field reaches it. -/
theorem decodeIgnoresThePad : Obligations.DecodeIgnoresThePad := by
  intro b x0 x1 y0 y1 s hb
  have hlen : (b ++ [x0, x1]).length = (b ++ [y0, y1]).length := by simp
  have hpacket : packetOfBytes (b ++ [x0, x1]) = packetOfBytes (b ++ [y0, y1]) := by
    rw [packetOfBytes_append_pair hb, packetOfBytes_append_pair hb]
  simp only [exec_decode_eq, decodeBuffer, hlen, hpacket]

/-- Settles O17: the two frames in a row are the layout of one frame, whose pad is the second frame's. -/
theorem coalescedReadIsOnePacket : Obligations.CoalescedReadIsOnePacket := by
  intro p q f g s hf hg hmax
  obtain ⟨hbody, rfl⟩ := exec_encode_okFrame hf
  obtain ⟨-, rfl⟩ := exec_encode_okFrame hg
  have hlenp := frameOfPacket_length p
  have hlenq := frameOfPacket_length q
  have hmin : 14 ≤ (frameOfPacket p ++ frameOfPacket q).length := by rw [List.length_append]; omega
  have hdecode := exec_decode hmin (List.length_append.trans_le hmax) s
  rw [packetOfBytes_frameOfPacket_append p (by omega)] at hdecode
  exact ⟨_, hdecode, rfl, rfl, packetOf_size_toNat hbody p.type p.id, rfl⟩

end Sys2Proof.Proofs

/-! PROOF. The byte step of rule R121 by phase: while a part of a frame is being collected, at the size field of rule R124,
at the last byte of rule R126; and the push of rule R122 as its loop. -/

namespace Sys2Proof.Machine

open Safety

/-- The framer with a byte stored at FRM_CNT and counted (rule R121), before what follows the byte. -/
def Framer.store (fr : Framer) (b : Byte) : Framer :=
  { fr with buf := Memory.insert fr.buf fr.cnt.toNat b, cnt := fr.cnt + 1 }

/-- No index of FRM_BUF is so large that FRM_CNT wraps. -/
theorem Framer.store_cnt_toNat {fr : Framer} (hcnt : fr.cnt.toNat < 4106) (b : Byte) :
    (fr.store b).cnt.toNat = fr.cnt.toNat + 1 := by
  show (fr.cnt + 1).toNat = fr.cnt.toNat + 1
  bv_omega

theorem Framer.store_byteAt {fr : Framer} (hcnt : fr.cnt.toNat < 4106) (b : Byte) (a : Nat) :
    (fr.store b).byteAt a = if a = fr.cnt.toNat then b else fr.byteAt a :=
  Framer.byteAt_write (fr' := fr.store b) (Memory.write_ok hcnt) rfl rfl a

/-- Rule R121: within FRM_BUF the byte is stored, and what follows it is decided on the framer that holds it. -/
theorem frmByte_eq_afterByte {fr : Framer} (hcnt : fr.cnt.toNat < 4106) (b : Byte) :
    frmByte fr b = afterByte (fr.store b) := by
  unfold frmByte
  rw [Memory.write_ok hcnt]
  rfl

/-- FRM_CNT at which the part being collected is complete: the size field in HDR, the frame in BODY (rules R124, R126).
In CLOSED and FAULT nothing is collected. -/
def Framer.goal (fr : Framer) : Nat :=
  match fr.st with
  | .hdr => 4
  | .body => fr.len.toNat
  | .closed => 0
  | .fault => 0

theorem Framer.goal_of_hdr {fr : Framer} (hst : fr.st = .hdr) : fr.goal = 4 := by simp [Framer.goal, hst]

theorem Framer.goal_of_body {fr : Framer} (hst : fr.st = .body) : fr.goal = fr.len.toNat := by simp [Framer.goal, hst]

@[simp] theorem Framer.store_goal (fr : Framer) (b : Byte) : (fr.store b).goal = fr.goal := rfl

/-- Only HDR and BODY collect. -/
theorem Framer.open_of_lt_goal {fr : Framer} {n : Nat} (h : n < fr.goal) : fr.st = .hdr ∨ fr.st = .body := by
  cases hst : fr.st with
  | hdr => exact .inl rfl
  | body => exact .inr rfl
  | closed | fault => simp [Framer.goal, hst] at h

theorem ne_fault_of_open {fr : Framer} (hopen : fr.st = .hdr ∨ fr.st = .body) : fr.st ≠ .fault := by
  rcases hopen with hst | hst <;> simp [hst]

theorem ne_closed_of_open {fr : Framer} (hopen : fr.st = .hdr ∨ fr.st = .body) : fr.st ≠ .closed := by
  rcases hopen with hst | hst <;> simp [hst]

/-- Nothing follows a stored byte while the part being collected is not complete. -/
theorem afterByte_of_lt_goal {fr : Framer} (h : fr.cnt.toNat < fr.goal) : afterByte fr = .ok (fr, []) := by
  rcases afterByte_cases fr with ⟨hst, hcnt, -⟩ | ⟨hst, hcnt, -⟩ | ⟨hkept, -, -⟩
  · rw [Framer.goal_of_hdr hst, hcnt] at h
    exact absurd h (by decide)
  · rw [Framer.goal_of_body hst, hcnt] at h
    exact absurd h (Nat.lt_irrefl _)
  · exact hkept

/-- Rules R123 and R125: a byte that does not complete the part being collected is stored, and that is all. -/
theorem frmByte_of_lt_goal {fr : Framer} (hlt : fr.cnt.toNat + 1 < fr.goal) (hcap : fr.goal ≤ 4106) (b : Byte) :
    frmByte fr b = .ok (fr.store b, []) := by
  have hcnt : fr.cnt.toNat < 4106 := by omega
  rw [frmByte_eq_afterByte hcnt b]
  exact afterByte_of_lt_goal (by rwa [Framer.store_cnt_toNat hcnt, Framer.store_goal])

/-- Rule R124: the fourth header byte completes the size field, which is rejected or admitted. -/
theorem frmByte_of_sizeField {fr : Framer} (hst : fr.st = .hdr) (hcnt : fr.cnt.toNat = 3) (b : Byte) :
    (∃ f, lengthFault (declaredSize (fr.store b) + 4) = some f ∧
      frmByte fr b = .ok ((fr.store b).enterFault f, [.fault f (u32le ((fr.store b).bytesFrom 0 4))])) ∨
    (lengthFault (declaredSize (fr.store b) + 4) = none ∧
      frmByte fr b =
        .ok ({ fr.store b with len := BitVec.ofNat 13 (declaredSize (fr.store b) + 4), st := .body }, [])) := by
  have hfour : (fr.store b).cnt = 4 := show fr.cnt + 1 = 4 by bv_omega
  rw [frmByte_eq_afterByte (by omega) b, afterByte_hdr (fr := fr.store b) hst hfour, ← u32le_bytesFrom_toNat]
  exact headerComplete_cases (fr.store b)

/-- Rule R126: the byte that completes the frame empties the framer and emits DECODE's packet of the collected bytes. -/
theorem frmByte_of_lastByte {fr : Framer} (hst : fr.st = .body) (hlast : fr.cnt.toNat + 1 = fr.len.toNat)
    (hmin : 14 ≤ fr.len.toNat) (hmax : fr.len.toNat ≤ 4106) (b : Byte) :
    frmByte fr b = .ok ({ fr.store b with cnt := 0, len := 0, st := .hdr },
      [.packet (packetOfBytes ((fr.store b).bytesFrom 0 fr.len.toNat))]) := by
  have hfull : (fr.store b).cnt = (fr.store b).len := show fr.cnt + 1 = fr.len by bv_omega
  rw [frmByte_eq_afterByte (by omega) b, afterByte_body (fr := fr.store b) hst hfull]
  exact frameComplete_ok hmin hmax

/-- No byte closes the framer (rule R128: only FRM_EOS does). -/
theorem frmByte_ne_closed {fr fr' : Framer} {b : Byte} {es : List Event} (hst : fr.st ≠ .closed)
    (h : frmByte fr b = .ok (fr', es)) : fr'.st ≠ .closed := by
  obtain ⟨m, -, hafter⟩ := frmByte_spec h
  rcases afterByte_next hafter with ⟨-, -, f, -, rfl⟩ | ⟨-, -, -, rfl⟩ | ⟨-, -, rfl⟩ | ⟨-, -, rfl⟩
  · simp
  · simp
  · simp
  · exact hst

theorem pushBytes_ne_closed {fr fr' : Framer} {bs : Bytes} {es : List Event} (hst : fr.st ≠ .closed)
    (h : pushBytes fr bs = .ok (fr', es)) : fr'.st ≠ .closed :=
  pushBytes_induction (P := fun fr => fr.st ≠ .closed) (fun _ _ _ _ hne _ hbyte => frmByte_ne_closed hne hbyte) hst h

/-- The loop on one more byte, once the byte step and the rest of the loop are known. -/
theorem pushBytes_cons_eq {fr fr₁ fr₂ : Framer} (hnfault : fr.st ≠ .fault) {b : Byte} {bs : Bytes} {es₁ es₂ : List Event}
    (hbyte : frmByte fr b = .ok (fr₁, es₁)) (hrest : pushBytes fr₁ bs = .ok (fr₂, es₂)) :
    pushBytes fr (b :: bs) = .ok (fr₂, es₁ ++ es₂) := by
  rw [pushBytes_cons hnfault, hbyte]
  simp only [hrest]

/-- The loop completes on two byte strings in a row just when it does on each, one after the other. -/
theorem pushBytes_append_eq_ok {fr fr₂ : Framer} {bs cs : Bytes} {es : List Event} :
    pushBytes fr (bs ++ cs) = .ok (fr₂, es) ↔
      ∃ fr₁ es₁ es₂, pushBytes fr bs = .ok (fr₁, es₁) ∧ pushBytes fr₁ cs = .ok (fr₂, es₂) ∧ es = es₁ ++ es₂ := by
  rw [pushBytes_append]
  cases pushBytes fr bs with
  | error e => simp
  | ok r =>
    obtain ⟨fr₁, es₁⟩ := r
    cases hrest : pushBytes fr₁ cs with
    | error e => simp [hrest]
    | ok r => simp [hrest, Prod.ext_iff, eq_comm]

/-- Rule R122: in HDR and BODY operation 3 on a chunk with a byte stops where its loop stops, and else replies by the state
it ends in. -/
theorem framerPush_of_open {fr : Framer} {chunk : Bytes} (hne : chunk ≠ []) (hopen : fr.st = .hdr ∨ fr.st = .body) :
    (∃ e, pushBytes fr chunk = .error e ∧ framerPush fr chunk = .error e) ∨
    (∃ fr' es, pushBytes fr chunk = .ok (fr', es) ∧ framerPush fr chunk = .ok (fr', pushReply fr' es)) := by
  rcases framerPush_cases fr chunk with ⟨hnil, -⟩ | ⟨-, hclosed, -⟩ | ⟨-, hfault, -⟩ | ⟨-, -, hloop⟩
  · exact absurd hnil hne
  · exact absurd hclosed (ne_closed_of_open hopen)
  · exact absurd hfault (ne_fault_of_open hopen)
  · exact hloop

/-- Rule R122: in HDR and BODY a push completes just when its loop does, with the reply of the state it ends in. -/
theorem exec_frmPush_eq_next_iff {s t : State} {chunk : Bytes} (hne : chunk ≠ [])
    (hopen : s.frm.st = .hdr ∨ s.frm.st = .body) :
    exec (.frmPush chunk) s = .next t ↔
      ∃ fr es, pushBytes s.frm chunk = .ok (fr, es) ∧ t = State.reply { s with frm := fr } (pushReply fr es) := by
  have hexec : exec (.frmPush chunk) s = s.finishFrm (framerPush s.frm chunk) := rfl
  rcases framerPush_of_open hne hopen with ⟨e, hloop, hpush⟩ | ⟨fr, es, hloop, hpush⟩ <;> rw [hexec, hpush, hloop]
  · simp [State.finishFrm]
  · simp [State.finishFrm, eq_comm]

/-- Rule R122 on a chunk of one byte. -/
theorem exec_frmPush_byte {s : State} {b : Byte} {fr : Framer} {es : List Event}
    (hopen : s.frm.st = .hdr ∨ s.frm.st = .body) (h : frmByte s.frm b = .ok (fr, es)) :
    exec (.frmPush [b]) s = .next (State.reply { s with frm := fr } (pushReply fr es)) := by
  have hloop := pushBytes_cons_eq (ne_fault_of_open hopen) h (pushBytes_nil fr)
  rw [List.append_nil] at hloop
  exact (exec_frmPush_eq_next_iff (List.cons_ne_nil b []) hopen).mpr ⟨fr, es, hloop, rfl⟩

theorem pushReply_of_fault {fr : Framer} (hst : fr.st = .fault) (es : List Event) :
    pushReply fr es = .frmFault fr.cause es := if_pos hst

theorem pushReply_of_ne_fault {fr : Framer} (hst : fr.st ≠ .fault) (es : List Event) :
    pushReply fr es = .okEvents es := if_neg hst

/-- Rule R127: in CLOSED operation 3 keeps the framer, whatever its chunk. -/
theorem framerPush_of_closed {fr : Framer} (hst : fr.st = .closed) (chunk : Bytes) :
    framerPush fr chunk = .ok (fr, .refused .closed) := by
  cases chunk <;> simp [framerPush, framerEos, pushChunk, hst]

/-- Rule R127: in CLOSED every operation of FRM is refused. -/
theorem exec_of_isFrm_of_closed {s : State} {i : Instr} (hi : isFrm i = true) (hst : s.frm.st = .closed) :
    exec i s = .next (s.reply (.refused .closed)) := by
  obtain ⟨chunk, hpush⟩ := exec_of_isFrm_push hi
  rw [hpush, framerPush_of_closed hst]
  rfl

/-- Rule R127: in FAULT every operation of FRM is refused. -/
theorem exec_of_isFrm_of_fault {s : State} {i : Instr} (hi : isFrm i = true) (hst : s.frm.st = .fault) :
    exec i s = .next (s.reply (.refused .faulted)) := by
  obtain ⟨chunk, hpush⟩ := exec_of_isFrm_push hi
  rw [hpush, framerPush_of_fault hst]
  rfl

theorem FrmSt.open_or_closed_or_fault (st : FrmSt) : (st = .hdr ∨ st = .body) ∨ st = .closed ∨ st = .fault := by
  cases st <;> simp

end Sys2Proof.Machine

namespace Sys2Proof.Machine

/-- Rules R123 and R125 as one push: the byte is stored at FRM_CNT and counted, and everything else stays. -/
theorem exec_frmPush_byte_of_lt_goal {s : State} {b : Byte} (hlt : s.frm.cnt.toNat + 1 < s.frm.goal)
    (hcap : s.frm.goal ≤ 4106) :
    ∃ t, exec (.frmPush [b]) s = .next t ∧ t.frm.st = s.frm.st ∧ t.frm.cnt.toNat = s.frm.cnt.toNat + 1 ∧
      t.frm.len = s.frm.len ∧ t.frm.cause = s.frm.cause ∧
      (∀ a, t.frm.byteAt a = if a = s.frm.cnt.toNat then b else s.frm.byteAt a) ∧
      t.inbox = s.inbox ∧ t.replies = s.replies ++ [.okEvents []] := by
  have hcnt : s.frm.cnt.toNat < 4106 := by omega
  have hopen := Framer.open_of_lt_goal hlt
  have hpush := exec_frmPush_byte hopen (frmByte_of_lt_goal hlt hcap b)
  rw [pushReply_of_ne_fault (fr := s.frm.store b) (ne_fault_of_open hopen)] at hpush
  exact ⟨_, hpush, rfl, Framer.store_cnt_toNat hcnt b, rfl, rfl, Framer.store_byteAt hcnt b, rfl, rfl⟩

/-- The declared size once the fourth header byte is stored (rule R124): three bytes collected and that one. -/
theorem declaredSize_store {fr : Framer} (hcnt : fr.cnt.toNat = 3) (b : Byte) :
    Safety.declaredSize (fr.store b) = (fr.byteAt 0).toNat + 256 * (fr.byteAt 1).toNat + 65536 * (fr.byteAt 2).toNat
      + 16777216 * b.toNat := by
  simp [Safety.declaredSize, Framer.store_byteAt (show fr.cnt.toNat < 4106 by omega), hcnt]

theorem Framer.bytesFrom_take (fr : Framer) (a : Nat) {k n : Nat} (hk : k ≤ n) :
    (fr.bytesFrom a n).take k = fr.bytesFrom a k := by
  induction k generalizing a n with
  | zero => rfl
  | succ k ih =>
    obtain ⟨n, rfl⟩ := Nat.exists_eq_add_of_le' hk
    exact congrArg (fr.byteAt a :: ·) (ih (a + 1) (Nat.le_add_left k n))

/-- Rules R29 and R110: the size of DECODE's packet of the collected bytes is the declared size. -/
theorem packetOfBytes_bytesFrom_size_toNat (fr : Framer) {n : Nat} (hn : 4 ≤ n) :
    (packetOfBytes (fr.bytesFrom 0 n)).size.toNat = Safety.declaredSize fr := by
  have hfield : slice (fr.bytesFrom 0 n) 0 4 = fr.bytesFrom 0 4 := Framer.bytesFrom_take fr 0 hn
  rw [← u32le_bytesFrom_toNat, ← hfield]
  rfl

/-- FRM_EOS in HDR and BODY (rule R128). -/
theorem framerEos_of_open {fr : Framer} (hopen : fr.st = .hdr ∨ fr.st = .body) :
    framerEos fr = ({ fr with cnt := 0, len := 0, st := .closed }, .okEvents [.closed fr.cnt.toNat]) := by
  rcases hopen with hst | hst <;> simp [framerEos, hst]

theorem exec_frmEos_of_open {s : State} (hopen : s.frm.st = .hdr ∨ s.frm.st = .body) :
    exec .frmEos s = .next (State.reply { s with frm := { s.frm with cnt := 0, len := 0, st := .closed } }
      (.okEvents [.closed s.frm.cnt.toNat])) :=
  congrArg (fun r => s.finishFrm (.ok r)) (framerEos_of_open hopen)

end Sys2Proof.Machine

namespace Sys2Proof.Proofs

open Machine Safety

/-- Settles O20: the size field is complete at FRM_CNT 4, which the byte does not reach. -/
theorem headerByteIsStored : Obligations.HeaderByteIsStored := by
  intro s b hst hcnt
  have hgoal := Framer.goal_of_hdr hst
  rw [← hst]
  exact exec_frmPush_byte_of_lt_goal (by omega) (by omega)

/-- Settles O22: the frame is complete at FRM_CNT = FRM_LEN, which the byte does not reach. -/
theorem bodyByteIsStored : Obligations.BodyByteIsStored := by
  intro s b hst hlt hmax
  have hgoal := Framer.goal_of_body hst
  rw [← hst]
  exact exec_frmPush_byte_of_lt_goal (by omega) (by omega)

/-- Settles O21: the byte completes the size field, and the ranges of the declared size are those of the admission test on
the declared length. -/
theorem sizeFieldIsJudged : Obligations.SizeFieldIsJudged := by
  intro s b size hst hcnt hsize
  have hdeclared : declaredSize (s.frm.store b) = size.toNat := (declaredSize_store hcnt b).trans hsize.symm
  have hfield : u32le ((s.frm.store b).bytesFrom 0 4) = size :=
    BitVec.eq_of_toNat_eq ((u32le_bytesFrom_toNat _).trans hdeclared)
  have hcnt4 : (s.frm.store b).cnt.toNat = 4 := by rw [Framer.store_cnt_toNat (by omega), hcnt]
  have hbytes (a : Nat) : (s.frm.store b).byteAt a = if a = 3 then b else s.frm.byteAt a :=
    hcnt ▸ Framer.store_byteAt (by omega) b a
  rcases frmByte_of_sizeField hst hcnt b with ⟨f, hf, hbyte⟩ | ⟨hf, hbyte⟩ <;> rw [hdeclared] at hf
  · rw [hfield] at hbyte
    have hpush := exec_frmPush_byte (.inl hst) hbyte
    rw [pushReply_of_fault rfl] at hpush
    refine ⟨_, hpush, hcnt4, rfl, hbytes, fun hrange => ?_, fun hrange => ?_, fun hrange => ?_⟩
    · obtain rfl : f = .invalidLength :=
        Option.some.inj (hf.symm.trans ((lengthFault_invalidLength_iff _).mpr (by omega)))
      exact ⟨rfl, rfl, rfl, rfl⟩
    · obtain rfl : f = .shortFrame :=
        Option.some.inj (hf.symm.trans ((lengthFault_shortFrame_iff _).mpr (by omega)))
      exact ⟨rfl, rfl, rfl, rfl⟩
    · cases hf.symm.trans ((lengthFault_none_iff _).mpr (by omega))
  · have hbound := (lengthFault_none_iff _).mp hf
    have hlen : (BitVec.ofNat 13 (declaredSize (s.frm.store b) + 4)).toNat = size.toNat + 4 := by
      rw [hdeclared]
      exact (BitVec.toNat_ofNat _ 13).trans (Nat.mod_eq_of_lt (by omega))
    have hpush := exec_frmPush_byte (.inl hst) hbyte
    rw [pushReply_of_ne_fault (by simp)] at hpush
    exact ⟨_, hpush, hcnt4, rfl, hbytes, fun hrange => by omega, fun hrange => by omega,
      fun _ => ⟨rfl, rfl, hlen, rfl⟩⟩

/-- Settles O23: DECODE accepts a string of FRM_LEN bytes, and its size field lies below the byte just stored. -/
theorem lastByteEmitsThePacket : Obligations.LastByteEmitsThePacket := by
  intro s b hst hlast hmin hmax
  have hcnt : s.frm.cnt.toNat < 4106 := by omega
  have hbyte := frmByte_of_lastByte hst hlast hmin hmax b
  generalize hf : (s.frm.store b).bytesFrom 0 s.frm.len.toNat = f at hbyte
  have hlen : f.length = s.frm.len.toNat := hf ▸ Framer.bytesFrom_length _ _ _
  have hbytes (k : Nat) (hk : k < f.length) : f[k]? = some ((s.frm.store b).byteAt k) := by
    rw [← hf, Framer.bytesFrom_getElem? _ _ _ _ (hlen ▸ hk), Nat.zero_add]
  have hpush := exec_frmPush_byte (.inr hst) hbyte
  rw [pushReply_of_ne_fault (by simp)] at hpush
  refine ⟨_, _, f, hpush, rfl, rfl, rfl, rfl, rfl, Framer.store_byteAt hcnt b, rfl, hlen, hbytes,
    exec_decode (by omega) (by omega) s, ?_, fun hsize => ?_⟩
  · rw [packetOfBytes_body_length (by omega), hlen]
  · have hkept : declaredSize (s.frm.store b) = declaredSize s.frm :=
      declaredSize_of_write (Memory.write_ok hcnt) rfl (by omega)
    have hfield : (packetOfBytes f).size.toNat = declaredSize (s.frm.store b) :=
      hf ▸ packetOfBytes_bytesFrom_size_toNat _ (by omega)
    omega

/-- Settles O25: an operation of FRM is operation 3 on some chunk, which is refused; and operation 3 is all a step other
than reset can do to the framer. -/
theorem closedAndFaultRefuse : Obligations.ClosedAndFaultRefuse := by
  refine ⟨fun s i hi => ⟨exec_of_isFrm_of_closed hi, exec_of_isFrm_of_fault hi⟩, fun s t hst hnreset hstep => ?_, rfl, rfl⟩
  rcases step_frm_cases hstep with hkept | ⟨chunk, rep, hpush⟩ | ⟨hreset, -⟩
  · exact hkept
  · rcases hst with hclosed | hfault
    · exact (congrArg Prod.fst (Except.ok.inj ((framerPush_of_closed hclosed chunk).symm.trans hpush))).symm
    · exact (congrArg Prod.fst (Except.ok.inj ((framerPush_of_fault hfault chunk).symm.trans hpush))).symm
  · exact absurd hreset hnreset

/-- Settles O24: an empty chunk is FRM_EOS by its code and as a push. -/
theorem endOfStreamCloses : Obligations.EndOfStreamCloses := by
  intro s
  refine ⟨fun _ _ _ _ => rfl, rfl, fun hopen => ?_, exec_of_isFrm_of_closed rfl, exec_of_isFrm_of_fault rfl⟩
  exact ⟨_, exec_frmEos_of_open hopen, rfl, rfl, rfl, rfl, rfl, rfl, rfl⟩

end Sys2Proof.Proofs

/-! PROOF. Chunk boundaries (rules R129 and R131): a fault ends a chunk, and otherwise the loop does not see where one chunk
ends and the next begins. -/

namespace Sys2Proof.Machine

open Safety

/-- Rule R31: a reply adds its events at the end. -/
@[simp] theorem eventsOf_concat (rs : List Reply) (r : Reply) :
    eventsOf (rs ++ [r]) = eventsOf rs ++ replyEvents r := by
  induction rs with
  | nil => simp [eventsOf]
  | cons r' rs ih => simp [eventsOf, ih]

@[simp] theorem replyEvents_pushReply (fr : Framer) (es : List Event) : replyEvents (pushReply fr es) = es := by
  unfold pushReply
  split <;> rfl

/-- Outside CLOSED a push gives the framer and the events of its loop, which in FAULT does nothing: only the reply tells a
refused push from the loop (rules R122, R127). -/
theorem exec_frmPush_of_ne_closed {s : State} {chunk : Bytes} {fr : Framer} {es : List Event} (hne : chunk ≠ [])
    (hst : s.frm.st ≠ .closed) (h : pushBytes s.frm chunk = .ok (fr, es)) :
    ∃ t, exec (.frmPush chunk) s = .next t ∧ t.frm = fr ∧ t.inbox = s.inbox ∧
      eventsOf t.replies = eventsOf s.replies ++ es := by
  rcases s.frm.st.open_or_closed_or_fault with hopen | hclosed | hfault
  · exact ⟨_, (exec_frmPush_eq_next_iff hne hopen).mpr ⟨fr, es, h, rfl⟩, rfl, rfl, by simp⟩
  · exact absurd hclosed hst
  · cases (pushBytes_of_fault hfault chunk).symm.trans h
    exact ⟨_, exec_of_isFrm_of_fault rfl hfault, rfl, rfl, by simp [replyEvents]⟩

/-- The converse: outside CLOSED a push that completes has run its loop to the end. -/
theorem pushBytes_of_exec_frmPush {s t : State} {chunk : Bytes} (hne : chunk ≠ []) (hst : s.frm.st ≠ .closed)
    (h : exec (.frmPush chunk) s = .next t) :
    ∃ es, pushBytes s.frm chunk = .ok (t.frm, es) ∧ eventsOf t.replies = eventsOf s.replies ++ es := by
  rcases s.frm.st.open_or_closed_or_fault with hopen | hclosed | hfault
  · obtain ⟨fr, es, hloop, rfl⟩ := (exec_frmPush_eq_next_iff hne hopen).mp h
    exact ⟨es, hloop, by simp⟩
  · exact absurd hclosed hst
  · cases (exec_of_isFrm_of_fault rfl hfault).symm.trans h
    exact ⟨[], pushBytes_of_fault hfault chunk, by simp [replyEvents]⟩

/-- Rule R131: bytes behind a chunk that ends in FAULT are dropped. -/
theorem exec_frmPush_append_of_fault {s t : State} {c₁ : Bytes} (c₂ : Bytes) (hne : c₁ ≠ [])
    (h : exec (.frmPush c₁) s = .next t) (hfault : t.frm.st = .fault) : exec (.frmPush (c₁ ++ c₂)) s = .next t := by
  rcases s.frm.st.open_or_closed_or_fault with hopen | hclosed | hstart
  · obtain ⟨fr, es, hloop, rfl⟩ := (exec_frmPush_eq_next_iff hne hopen).mp h
    have hjoined : pushBytes s.frm (c₁ ++ c₂) = .ok (fr, es) :=
      pushBytes_append_eq_ok.mpr ⟨fr, es, [], hloop, pushBytes_of_fault hfault c₂, (List.append_nil es).symm⟩
    exact (exec_frmPush_eq_next_iff (List.append_ne_nil_of_left_ne_nil hne c₂) hopen).mpr ⟨fr, es, hjoined, rfl⟩
  · exact (exec_of_isFrm_of_closed rfl hclosed).trans ((exec_of_isFrm_of_closed rfl hclosed).symm.trans h)
  · exact (exec_of_isFrm_of_fault rfl hstart).trans ((exec_of_isFrm_of_fault rfl hstart).symm.trans h)

end Sys2Proof.Machine

namespace Sys2Proof.Proofs

open Machine Safety

/-- Settles O26: outside CLOSED a push is its loop, and the loop on two chunks in a row is the loop on each in turn. -/
theorem chunkBoundariesAreNotObservable : Obligations.ChunkBoundariesAreNotObservable := by
  intro s s₁ s₂ c₁ c₂ hne₁ hne₂ h₁ h₂
  have hne : c₁ ++ c₂ ≠ [] := List.append_ne_nil_of_left_ne_nil hne₁ c₂
  by_cases hfault : s₁.frm.st = .fault
  · cases (exec_of_isFrm_of_fault rfl hfault).symm.trans h₂
    exact ⟨s₁, exec_frmPush_append_of_fault c₂ hne₁ h₁ hfault, rfl, by simp [replyEvents], fun _ => ⟨rfl, rfl⟩⟩
  by_cases hclosed : s.frm.st = .closed
  · cases (exec_of_isFrm_of_closed rfl hclosed).symm.trans h₁
    cases (exec_of_isFrm_of_closed (s := s.reply _) rfl hclosed).symm.trans h₂
    have hevents : eventsOf ((s.reply (.refused .closed)).reply (.refused .closed)).replies =
        eventsOf (s.reply (.refused .closed)).replies := (eventsOf_concat _ _).trans (List.append_nil _)
    exact ⟨_, exec_of_isFrm_of_closed rfl hclosed, rfl, hevents.symm, fun h => absurd h hfault⟩
  · obtain ⟨es₁, hloop₁, hevents₁⟩ := pushBytes_of_exec_frmPush hne₁ hclosed h₁
    obtain ⟨es₂, hloop₂, hevents₂⟩ := pushBytes_of_exec_frmPush hne₂ (pushBytes_ne_closed hclosed hloop₁) h₂
    have hloop : pushBytes s.frm (c₁ ++ c₂) = .ok (s₂.frm, es₁ ++ es₂) :=
      pushBytes_append_eq_ok.mpr ⟨_, _, _, hloop₁, hloop₂, rfl⟩
    obtain ⟨t, ht, hfrm, -, hevents⟩ := exec_frmPush_of_ne_closed hne hclosed hloop
    exact ⟨t, ht, hfrm, by rw [hevents, hevents₂, hevents₁, List.append_assoc], fun h => absurd h hfault⟩

/-- Settles O27: a framer in FAULT takes no byte of what follows. -/
theorem bytesAfterAFaultAreDropped : Obligations.BytesAfterAFaultAreDropped :=
  fun _ _ _ c₂ hne _ h hfault => exec_frmPush_append_of_fault c₂ hne h hfault

end Sys2Proof.Proofs

/-! PROOF. The framed path on a stream of frames (rule R130): what the framer has collected, one frame pushed at a frame
boundary, and the run of the machine on one push per chunk. -/

namespace Sys2Proof.Machine

open Safety

/-- FRM_BUF[0..FRM_CNT] of rule R28 is that byte string. -/
def Collected (fr : Framer) (got : Bytes) : Prop :=
  fr.cnt.toNat = got.length ∧ ∀ k, k < got.length → got[k]? = some (fr.byteAt k)

theorem collected_nil {fr : Framer} (hcnt : fr.cnt = 0) : Collected fr [] :=
  ⟨congrArg BitVec.toNat hcnt, fun _ hk => absurd hk (Nat.not_lt_zero _)⟩

/-- Rule R121: a stored byte is collected behind the others. -/
theorem Collected.store {fr : Framer} {got : Bytes} (h : Collected fr got) (hcap : got.length < 4106) (b : Byte) :
    Collected (fr.store b) (got ++ [b]) := by
  obtain ⟨hcnt, hbytes⟩ := h
  refine ⟨by rw [Framer.store_cnt_toNat (by omega), hcnt, List.length_append, List.length_singleton], fun k hk => ?_⟩
  rw [Framer.store_byteAt (by omega), hcnt]
  rcases Nat.lt_or_ge k got.length with hlt | hge
  · rw [List.getElem?_append_left hlt, hbytes k hlt, if_neg (by omega)]
  · obtain rfl : k = got.length := by rw [List.length_append, List.length_singleton] at hk; omega
    simp

/-- Reading what was collected gives it back. -/
theorem Collected.bytesFrom {fr : Framer} {got : Bytes} (h : Collected fr got) : fr.bytesFrom 0 got.length = got := by
  apply List.ext_getElem?
  intro k
  rcases Nat.lt_or_ge k got.length with hlt | hge
  · rw [Framer.bytesFrom_getElem? fr 0 _ k hlt, Nat.zero_add, h.2 k hlt]
  · rw [List.getElem?_eq_none (by simpa using hge), List.getElem?_eq_none hge]

/-- Bytes that do not complete the part being collected are collected, and that is all. -/
theorem pushBytes_of_lt_goal {fr : Framer} {got bs : Bytes} (hc : Collected fr got) (hlt : got.length + bs.length < fr.goal)
    (hcap : fr.goal ≤ 4106) :
    ∃ fr', pushBytes fr bs = .ok (fr', []) ∧ fr'.st = fr.st ∧ fr'.len = fr.len ∧ Collected fr' (got ++ bs) := by
  induction bs generalizing fr got with
  | nil => exact ⟨fr, rfl, rfl, rfl, by rwa [List.append_nil]⟩
  | cons b bs ih =>
    rw [List.length_cons] at hlt
    have hcnt : fr.cnt.toNat = got.length := hc.1
    have hlen : (got ++ [b]).length = got.length + 1 := by simp
    have hbyte := frmByte_of_lt_goal (fr := fr) (by omega) hcap b
    obtain ⟨fr', hrest, hst, hlen', hc'⟩ := ih (hc.store (by omega) b) (by rw [Framer.store_goal]; omega) hcap
    have hnfault : fr.st ≠ .fault := ne_fault_of_open (Framer.open_of_lt_goal (n := 0) (by omega))
    exact ⟨fr', pushBytes_cons_eq hnfault hbyte hrest, hst, hlen', by rwa [List.append_cons]⟩

/-- One byte behind a run of bytes that completed nothing. -/
theorem pushBytes_concat {fr fr₁ fr₂ : Framer} {bs : Bytes} {b : Byte} {es : List Event}
    (hbs : pushBytes fr bs = .ok (fr₁, [])) (hnfault : fr₁.st ≠ .fault) (hbyte : frmByte fr₁ b = .ok (fr₂, es)) :
    pushBytes fr (bs ++ [b]) = .ok (fr₂, es) := by
  have hlast := pushBytes_cons_eq hnfault hbyte (pushBytes_nil fr₂)
  rw [List.append_nil] at hlast
  exact pushBytes_append_eq_ok.mpr ⟨fr₁, [], es, hbs, hlast, rfl⟩

/-- Rule R124 on a whole size field pushed at a frame boundary: it is rejected with the fault of the declared length, or
BODY is entered with the field collected. -/
theorem pushBytes_sizeField {fr : Framer} {field : Bytes} (hst : fr.st = .hdr) (hcnt : fr.cnt = 0)
    (hfield : field.length = 4) :
    (∃ fr' f, lengthFault ((u32le field).toNat + 4) = some f ∧ fr'.st = .fault ∧
      pushBytes fr field = .ok (fr', [.fault f (u32le field)])) ∨
    (∃ fr', lengthFault ((u32le field).toNat + 4) = none ∧ fr'.st = .body ∧ fr'.len.toNat = (u32le field).toNat + 4 ∧
      Collected fr' field ∧ pushBytes fr field = .ok (fr', [])) := by
  obtain ⟨b0, b1, b2, b3, rfl⟩ := List.length_eq_four.mp hfield
  have hgoal := Framer.goal_of_hdr hst
  obtain ⟨fr₁, hloop, hst₁, -, hgot⟩ :=
    pushBytes_of_lt_goal (bs := [b0, b1, b2]) (collected_nil hcnt) (by simp [hgoal]) (by simp [hgoal])
  rw [hst] at hst₁
  have hfull : Collected (fr₁.store b3) [b0, b1, b2, b3] := hgot.store (by simp) b3
  have hread : (fr₁.store b3).bytesFrom 0 4 = [b0, b1, b2, b3] := hfull.bytesFrom
  have hsize : declaredSize (fr₁.store b3) = (u32le [b0, b1, b2, b3]).toNat := by rw [← u32le_bytesFrom_toNat, hread]
  have hnfault : fr₁.st ≠ .fault := by simp [hst₁]
  rcases frmByte_of_sizeField hst₁ hgot.1 b3 with ⟨f, hf, hbyte⟩ | ⟨hf, hbyte⟩ <;> rw [hsize] at hf
  · rw [hread] at hbyte
    exact .inl ⟨_, f, hf, rfl, pushBytes_concat hloop hnfault hbyte⟩
  · have hbound := (lengthFault_none_iff _).mp hf
    refine .inr ⟨{ fr₁.store b3 with len := BitVec.ofNat 13 (declaredSize (fr₁.store b3) + 4), st := .body }, hf, rfl,
      ?_, hfull, pushBytes_concat hloop hnfault hbyte⟩
    rw [hsize]
    exact (BitVec.toNat_ofNat _ 13).trans (Nat.mod_eq_of_lt (by omega))

/-- Rule R126 on all the bytes that a frame lacks: the packet is emitted and the framer is at a frame boundary. -/
theorem pushBytes_restOfFrame {fr : Framer} {got rest : Bytes} (hst : fr.st = .body) (hgot : Collected fr got)
    (hne : rest ≠ []) (hlen : got.length + rest.length = fr.len.toNat) (hmin : 14 ≤ fr.len.toNat)
    (hmax : fr.len.toNat ≤ 4106) :
    ∃ fr', fr'.st = .hdr ∧ fr'.cnt = 0 ∧ pushBytes fr rest = .ok (fr', [.packet (packetOfBytes (got ++ rest))]) := by
  obtain ⟨bs, b, rfl⟩ := (List.eq_nil_or_concat' rest).resolve_left hne
  rw [List.length_append, List.length_singleton] at hlen
  have hgoal := Framer.goal_of_body hst
  obtain ⟨fr₁, hloop, hst₁, hlen₁, hgot₁⟩ := pushBytes_of_lt_goal (bs := bs) hgot (by omega) (by omega)
  rw [hst] at hst₁
  have hcount : (got ++ bs).length + 1 = fr₁.len.toNat := by rw [List.length_append, hlen₁]; omega
  have hread := (hgot₁.store (by rw [hlen₁] at hcount; omega) b).bytesFrom
  rw [List.length_append, List.length_singleton, hcount, List.append_assoc] at hread
  have hbyte := frmByte_of_lastByte hst₁ (by rw [hgot₁.1, hcount]) (hlen₁ ▸ hmin) (hlen₁ ▸ hmax) b
  rw [hread] at hbyte
  exact ⟨_, rfl, rfl, pushBytes_concat hloop (by simp [hst₁]) hbyte⟩

/-- Rule R130 on one frame whose size field is right, pushed at a frame boundary: DECODE's fault, and then FAULT, or
DECODE's packet, and then a frame boundary. -/
theorem pushBytes_frame {fr : Framer} {f : Bytes} (hst : fr.st = .hdr) (hcnt : fr.cnt = 0) (hlen : 4 ≤ f.length)
    (hsize : (u32le (slice f 0 4)).toNat = f.length - 4) :
    (∃ fr' flt, lengthFault f.length = some flt ∧ fr'.st = .fault ∧
      pushBytes fr f = .ok (fr', [.fault flt (BitVec.ofNat 32 (f.length - 4))])) ∨
    (∃ fr', lengthFault f.length = none ∧ fr'.st = .hdr ∧ fr'.cnt = 0 ∧
      pushBytes fr f = .ok (fr', [.packet (packetOfBytes f)])) := by
  have hsplit : slice f 0 4 ++ f.drop 4 = f := List.take_append_drop 4 f
  have htotal : (u32le (slice f 0 4)).toNat + 4 = f.length := by omega
  rcases pushBytes_sizeField hst hcnt (field := slice f 0 4) (slice_length hlen) with
    ⟨fr', flt, hf, hfault, hfield⟩ | ⟨fr', hf, hbody, hlen', hgot, hfield⟩ <;> rw [htotal] at hf
  · rw [← hsize, BitVec.ofNat_toNat, BitVec.setWidth_eq]
    have hloop := pushBytes_append_eq_ok.mpr ⟨_, _, _, hfield, pushBytes_of_fault hfault (f.drop 4), rfl⟩
    rw [hsplit, List.append_nil] at hloop
    exact .inl ⟨fr', flt, hf, hfault, hloop⟩
  · obtain ⟨hmin, hmax⟩ := (lengthFault_none_iff _).mp hf
    have hrest : (f.drop 4).length = f.length - 4 := List.length_drop
    obtain ⟨fr₂, hst₂, hcnt₂, hrestLoop⟩ := pushBytes_restOfFrame hbody hgot (rest := f.drop 4)
      (List.ne_nil_of_length_pos (by omega)) (by rw [slice_length hlen]; omega) (by omega) (by omega)
    have hloop := pushBytes_append_eq_ok.mpr ⟨_, _, _, hfield, hrestLoop, rfl⟩
    rw [hsplit] at hloop
    exact .inr ⟨fr₂, hf, hst₂, hcnt₂, hloop⟩

/-- Rule R130 on the whole stream at once. -/
theorem pushBytes_frames {fr : Framer} {frames : List Bytes} (hst : fr.st = .hdr) (hcnt : fr.cnt = 0)
    (hframes : ∀ f ∈ frames, 4 ≤ f.length ∧ (u32le (slice f 0 4)).toNat = f.length - 4) :
    ∃ fr', pushBytes fr frames.flatten = .ok (fr', decodedEvents frames) := by
  induction frames generalizing fr with
  | nil => exact ⟨fr, rfl⟩
  | cons f frames ih =>
    obtain ⟨⟨hlen, hsize⟩, hrest⟩ := List.forall_mem_cons.mp hframes
    rcases pushBytes_frame hst hcnt hlen hsize with ⟨fr₁, flt, hf, hfault, hloop⟩ | ⟨fr₁, hf, hst₁, hcnt₁, hloop⟩
    · have hevents : decodedEvents (f :: frames) = [.fault flt (BitVec.ofNat 32 (f.length - 4))] := by
        simp [decodedEvents, decodeBuffer_error hf]
      exact ⟨fr₁, pushBytes_append_eq_ok.mpr
        ⟨_, _, _, hloop, pushBytes_of_fault hfault _, hevents.trans (List.append_nil _).symm⟩⟩
    · obtain ⟨hmin, hmax⟩ := (lengthFault_none_iff _).mp hf
      have hevents : decodedEvents (f :: frames) = [.packet (packetOfBytes f)] ++ decodedEvents frames := by
        simp [decodedEvents, decodeBuffer_ok hmin hmax]
      obtain ⟨fr₂, hloop₂⟩ := ih hst₁ hcnt₁ hrest
      exact ⟨fr₂, pushBytes_append_eq_ok.mpr ⟨_, _, _, hloop, hloop₂, hevents⟩⟩

/-- Rule R70: operation code 3 with a byte in its chunk is a push, whatever the other operand lines hold. -/
theorem decode_op_push (vsel : BitVec 2) (size : U32) (id type : I32) {chunk : Bytes} (hne : chunk ≠ []) :
    decode (.op 3 vsel size id type chunk) = .ok (.frmPush chunk) := by
  cases chunk with
  | nil => exact absurd rfl hne
  | cons b bs => rfl

theorem run_succ_of_step {s s' : State} (h : step s = .next s') (k : Nat) :
    Host.Core.run core (k + 1) s = Host.Core.run core k s' := by
  have hcore : core.step s = .next s' := h
  simp only [Host.Core.run, hcore]

/-- Outside CLOSED the machine, given one push per chunk, ends with the framer and the events of the loop on all the bytes:
how they were cut leaves no trace (rule R129). -/
theorem run_pushes {s : State} {chunks : List Bytes} {fr : Framer} {es : List Event} (hne : ∀ c ∈ chunks, c ≠ [])
    (hst : s.frm.st ≠ .closed) (hin : s.inbox = chunks.map fun c => .transfer (encode (.frmPush c)))
    (h : pushBytes s.frm chunks.flatten = .ok (fr, es)) :
    ∃ t, Host.Core.run core chunks.length s = .next t ∧ t.frm = fr ∧
      eventsOf t.replies = eventsOf s.replies ++ es := by
  induction chunks generalizing s es with
  | nil => cases h; exact ⟨s, rfl, rfl, (List.append_nil _).symm⟩
  | cons c chunks ih =>
    obtain ⟨hc, hrest⟩ := List.forall_mem_cons.mp hne
    obtain ⟨fr₁, es₁, es₂, hloop, hloop₂, rfl⟩ := pushBytes_append_eq_ok.mp h
    obtain ⟨s₁, hpush, rfl, hinbox, hevents⟩ := exec_frmPush_of_ne_closed (s := s.pop) hc hst hloop
    have hstep : step s = .next s₁ := (step_of_decode hin (decode_op_push 0 0 0 0 hc)).trans hpush
    have hin₁ : s₁.inbox = chunks.map fun c => .transfer (encode (.frmPush c)) := by
      rw [hinbox, State.pop_inbox, hin]; rfl
    obtain ⟨t, hrun, hfrm, hevents₂⟩ := ih hrest (pushBytes_ne_closed hst hloop) hin₁ hloop₂
    refine ⟨t, (run_succ_of_step hstep _).trans hrun, hfrm, ?_⟩
    rw [hevents₂, hevents, State.pop_replies, List.append_assoc]

end Sys2Proof.Machine

namespace Sys2Proof.Proofs

open Machine Safety

/-- Settles O30: the run is the loop on the concatenation, and the loop on the concatenation goes frame by frame. -/
theorem framedPathAgreesWithDecode : Obligations.FramedPathAgreesWithDecode := by
  intro s frames chunks hst hcnt hframes hne hflatten hin
  obtain ⟨fr, hloop⟩ := pushBytes_frames hst hcnt hframes
  rw [← hflatten] at hloop
  obtain ⟨t, hrun, -, hevents⟩ := run_pushes hne (by simp [hst]) hin hloop
  exact ⟨t, hrun, hevents⟩

end Sys2Proof.Proofs

/-! PROOF. A push as a whole (rules R121 and R122): that it completes under rule R29, what events it emits, and which bytes of
FRM_BUF it leaves alone. -/

namespace Sys2Proof.Machine

open Safety

/-- Rule R122's events of a loop that ends in that framer: packets, and then, exactly in FAULT, the one fault event of the
code in FRM_CAUSE. -/
def PushEvents (fr : Framer) (es : List Event) : Prop :=
  ∃ ps : List Packet, (fr.st ≠ .fault → es = ps.map .packet) ∧
    (fr.st = .fault → ∃ (f : FaultName) (size : U32), f.code = fr.cause ∧ es = ps.map .packet ++ [.fault f size])

theorem pushEvents_packets {fr : Framer} (hnfault : fr.st ≠ .fault) (ps : List Packet) :
    PushEvents fr (ps.map .packet) :=
  ⟨ps, fun _ => rfl, fun hfault => absurd hfault hnfault⟩

theorem pushEvents_enterFault (fr : Framer) (f : FaultName) (size : U32) :
    PushEvents (fr.enterFault f) [.fault f size] :=
  ⟨[], fun hnfault => absurd rfl hnfault, fun _ => ⟨f, size, rfl, rfl⟩⟩

theorem PushEvents.append {fr fr' : Framer} {es es' : List Event} (h : PushEvents fr es) (hnfault : fr.st ≠ .fault)
    (h' : PushEvents fr' es') : PushEvents fr' (es ++ es') := by
  obtain ⟨ps, hpackets, -⟩ := h
  obtain ⟨ps', hpackets', hfault'⟩ := h'
  refine ⟨ps ++ ps', fun hst => ?_, fun hst => ?_⟩
  · rw [hpackets hnfault, hpackets' hst, List.map_append]
  · obtain ⟨f, size, hcode, hes⟩ := hfault' hst
    exact ⟨f, size, hcode, by rw [hpackets hnfault, hes, List.map_append, List.append_assoc]⟩

/-- Under rule R29 a byte step in HDR or BODY completes: it is one of the four of rules R123 to R126. -/
theorem frmByte_completes {fr : Framer} (hinv : PushInv fr) (hnfault : fr.st ≠ .fault) (b : Byte) :
    ∃ fr' es, frmByte fr b = .ok (fr', es) ∧ PushEvents fr' es := by
  obtain ⟨⟨hok, -⟩, hnclosed⟩ := hinv
  rcases hok with ⟨hst, hcnt, -⟩ | ⟨hst, hmin, hmax, hcnt, hlt, -⟩ | ⟨hclosed, -⟩ | ⟨hfault, -⟩
  · have hgoal := Framer.goal_of_hdr hst
    rcases Nat.lt_or_eq_of_le hcnt with hlt | hthree
    · exact ⟨_, _, frmByte_of_lt_goal (by omega) (by omega) b, pushEvents_packets (fr := fr.store b) hnfault []⟩
    · rcases frmByte_of_sizeField hst hthree b with ⟨f, -, hbyte⟩ | ⟨-, hbyte⟩
      · exact ⟨_, _, hbyte, pushEvents_enterFault _ f _⟩
      · exact ⟨_, _, hbyte, pushEvents_packets (by simp) []⟩
  · have hgoal := Framer.goal_of_body hst
    rcases Nat.lt_or_eq_of_le (Nat.succ_le_of_lt hlt) with hmid | hlast
    · exact ⟨_, _, frmByte_of_lt_goal (by omega) (by omega) b, pushEvents_packets (fr := fr.store b) hnfault []⟩
    · exact ⟨_, _, frmByte_of_lastByte hst hlast hmin hmax b, pushEvents_packets (by simp) [_]⟩
  · exact absurd hclosed hnclosed
  · exact absurd hfault hnfault

/-- Rule R122: under rule R29 the loop completes from HDR and BODY, whatever the bytes. -/
theorem pushBytes_completes {fr : Framer} (hinv : PushInv fr) (hnfault : fr.st ≠ .fault) (bs : Bytes) :
    ∃ fr' es, pushBytes fr bs = .ok (fr', es) ∧ PushEvents fr' es := by
  induction bs generalizing fr with
  | nil => exact ⟨fr, [], rfl, pushEvents_packets hnfault []⟩
  | cons b bs ih =>
    obtain ⟨fr₁, es₁, hbyte, hes₁⟩ := frmByte_completes hinv hnfault b
    by_cases hfault₁ : fr₁.st = .fault
    · have hloop := pushBytes_cons_eq hnfault hbyte (pushBytes_of_fault hfault₁ bs)
      rw [List.append_nil] at hloop
      exact ⟨fr₁, es₁, hloop, hes₁⟩
    · obtain ⟨fr₂, es₂, hrest, hes₂⟩ := ih (frmByte_pushInv hinv hnfault hbyte) hfault₁
      exact ⟨fr₂, _, pushBytes_cons_eq hnfault hbyte hrest, hes₁.append hfault₁ hes₂⟩

/-- Rule R121: the loop leaves a byte of FRM_BUF alone that FRM_CNT never points at while bytes are taken. -/
theorem pushBytes_byteAt {fr fr' : Framer} {bs : Bytes} {es : List Event} {a : Nat}
    (h : pushBytes fr bs = .ok (fr', es))
    (hcnt : ∀ (k : Nat) (fr₁ : Framer) (es₁ : List Event), k < bs.length → pushBytes fr (bs.take k) = .ok (fr₁, es₁) →
      fr₁.st ≠ .fault → fr₁.cnt.toNat ≠ a) : fr'.byteAt a = fr.byteAt a := by
  induction bs generalizing fr es with
  | nil => cases h; rfl
  | cons b bs ih =>
    by_cases hfault : fr.st = .fault
    · cases (pushBytes_of_fault hfault _).symm.trans h
      rfl
    · obtain ⟨fr₁, es₁, es₂, hbyte, hrest, -⟩ := pushBytes_cons_ok hfault h
      have hne : fr.cnt.toNat ≠ a := hcnt 0 fr [] (Nat.succ_pos _) rfl hfault
      have hkept : fr₁.byteAt a = fr.byteAt a := (frmByte_byteAt hbyte a).trans (if_neg hne.symm)
      refine (ih hrest fun k fr₂ es₃ hk hloop => ?_).trans hkept
      exact hcnt (k + 1) fr₂ _ (Nat.succ_lt_succ hk) (pushBytes_cons_eq hfault hbyte hloop)

end Sys2Proof.Machine

namespace Sys2Proof.Proofs

open Machine Safety

/-- Settles O28: byte by byte the loop completes with packets until a fault, and the reply tells how it ended. -/
theorem pushCompletesWithItsEvents : Obligations.PushCompletesWithItsEvents := by
  intro chunk hne
  refine ⟨fun vsel size id type => decode_op_push vsel size id type hne, fun s hinv hopen => ?_⟩
  have hpinv : PushInv s.frm := ⟨hinv, ne_closed_of_open hopen⟩
  obtain ⟨fr, es, hloop, ps, hpackets, hfaults⟩ := pushBytes_completes hpinv (ne_fault_of_open hopen) chunk
  refine ⟨_, ps, (exec_frmPush_eq_next_iff hne hopen).mpr ⟨fr, es, hloop, rfl⟩, rfl, (pushBytes_pushInv hpinv hloop).2,
    fun (hnfault : fr.st ≠ .fault) => ?_, fun (hfault : fr.st = .fault) => ?_⟩
  · have hreply : pushReply fr es = .okEvents (ps.map .packet) := by
      rw [pushReply_of_ne_fault hnfault, hpackets hnfault]
    exact congrArg (fun r => s.replies ++ [r]) hreply
  · obtain ⟨f, size, hcode, hes⟩ := hfaults hfault
    have hreply : pushReply fr es = .frmFault fr.cause (ps.map .packet ++ [.fault f size]) := by
      rw [pushReply_of_fault hfault, hes]
    exact ⟨f, size, hcode, congrArg (fun r => s.replies ++ [r]) hreply⟩

/-- Settles O29: a refusal and FRM_EOS store no byte, and the loop stores one at FRM_CNT only. -/
theorem pushStoresOnlyAtTheCount : Obligations.PushStoresOnlyAtTheCount := by
  intro s t chunk a h hcnt
  rcases s.frm.st.open_or_closed_or_fault with hopen | hclosed | hfault
  · by_cases hnil : chunk = []
    · subst hnil
      cases (exec_frmEos_of_open hopen).symm.trans h
      rfl
    · obtain ⟨fr, es, hloop, rfl⟩ := (exec_frmPush_eq_next_iff hnil hopen).mp h
      exact pushBytes_byteAt hloop hcnt
  · cases (exec_of_isFrm_of_closed rfl hclosed).symm.trans h
    rfl
  · cases (exec_of_isFrm_of_fault rfl hfault).symm.trans h
    rfl

end Sys2Proof.Proofs


/-! PROOF. The result codes of rule R141: a fault's and a refusal's code is that of its name alone. -/

namespace Sys2Proof.Machine

/-- Rules R142 to R144: the length recorded with a fault has no part in its code. -/
theorem Reply.code_fault_bits {f : FaultName} {c : BitVec 3} (hc : f.code.bits = c) (n : Nat) :
    (Reply.fault { fault := f, len := n }).code.map ResultCode.bits = some c :=
  congrArg some hc

/-- Rule R145: a refusal's code is that of its reason. -/
theorem Reply.code_refused_bits {r : RefusalName} {c : BitVec 3} (hc : r.code.bits = c) :
    (Reply.refused r).code.map ResultCode.bits = some c :=
  congrArg some hc

end Sys2Proof.Machine

namespace Sys2Proof.Proofs

open Machine

/-- Settles O50: by kind of reply, where a fault or a refusal has the number of its name and only the reads have no code. -/
theorem outcomesCarryTheirCodes : Obligations.OutcomesCarryTheirCodes := by
  have hinvalid : FaultName.invalidLength.code.bits = 2 := rfl
  have hshort : FaultName.shortFrame.code.bits = 3 := rfl
  refine ⟨fun _ => rfl, fun _ => rfl, fun _ => rfl, Reply.code_fault_bits rfl, Reply.code_fault_bits hinvalid,
    Reply.code_fault_bits hshort, fun _ _ => rfl, hinvalid, hshort, ?badOp, ?notWF, ?closed, ?faulted,
    fun _ _ _ _ => rfl, fun _ _ => rfl, fun _ _ _ _ => rfl⟩
  case badOp | notWF | closed | faulted => exact Reply.code_refused_bits rfl

end Sys2Proof.Proofs

/-! PROOF. A step by its input (rules R30, R146, R165, R170), and that under rule R29 only a console line can stop it. -/

namespace Sys2Proof.Machine

open Safety

/-- Rule R146: only a console line can be no instruction. -/
theorem console_of_decode_eq_error {x : Transfer} {e : Reject} (h : decode x = .error e) : ∃ line, x = .console line := by
  cases x with
  | console line => exact ⟨line, rfl⟩
  | type side code vsel id body => cases side <;> cases h
  | op | wire | result | state => cases h

/-- Rules R121 and R126: under rule R29 operation 3 completes, whatever its chunk. -/
theorem framerPush_completes {fr : Framer} (hinv : FrmInv fr) (chunk : Bytes) :
    ∃ fr' rep, framerPush fr chunk = .ok (fr', rep) := by
  rcases framerPush_cases fr chunk with
    ⟨-, hr⟩ | ⟨-, -, hr⟩ | ⟨-, -, hr⟩ | ⟨-, hopen, ⟨e, hloop, -⟩ | ⟨fr', es, -, hr⟩⟩
  · exact ⟨_, _, hr⟩
  · exact ⟨_, _, hr⟩
  · exact ⟨_, _, hr⟩
  · obtain ⟨fr', es, hok, -⟩ := pushBytes_completes ⟨hinv, ne_closed_of_open hopen⟩ (ne_fault_of_open hopen) chunk
    cases hok.symm.trans hloop
  · exact ⟨_, _, hr⟩

/-- Under rule R29 every instruction completes: only operation 3 can stop at all. -/
theorem exec_completes {s : State} (hinv : FrmInv s.frm) (i : Instr) : ∃ t, exec i s = .next t := by
  rcases isPure_or_isFrm_or_isRead i with hpure | hfrm | hread
  · obtain ⟨r, hr⟩ := exec_of_isPure hpure
    exact ⟨_, hr s⟩
  · obtain ⟨chunk, hpush⟩ := exec_of_isFrm_push hfrm
    obtain ⟨fr', rep, hok⟩ := framerPush_completes hinv chunk
    exact ⟨_, by rw [hpush, hok, State.finishFrm_ok]⟩
  · rcases exec_of_isRead hread with ⟨row, hr⟩ | ⟨row, hr⟩ <;> exact ⟨_, hr s⟩

/-- Rule R170: the reset input is performed in every state. -/
theorem step_of_reset {s : State} {rest : List Input} (hin : s.inbox = .reset :: rest) :
    step s = .next s.pop.resetFramer := by
  simp [step, hin]

/-- Rule R30: the status read is performed in every state. -/
theorem step_of_statusRead {s : State} {rest : List Input} (hin : s.inbox = .statusRead :: rest) :
    step s = .next s.pop.readStatus := by
  simp [step, hin]

/-- Rule R165: with nothing issued the block is idle. -/
theorem step_of_idle {s : State} (hin : s.inbox = []) : step s = .next s := by
  simp [step, hin]

/-- Rule R146: a transfer that is no instruction stops the model under the name of the glue error. -/
theorem step_of_decode_error {s : State} {x : Transfer} {rest : List Input} {e : Reject}
    (hin : s.inbox = .transfer x :: rest) (hdecode : decode x = .error e) : step s = .refused (rejectRefusal e) := by
  simp [step, hin, hdecode]

end Sys2Proof.Machine

namespace Sys2Proof.Proofs

open Machine Safety

/-- Settles O33: every instruction completes under the invariant, and a transfer that names none is a console line. -/
theorem noStepStopsUnderTheInvariant : Obligations.NoStepStopsUnderTheInvariant := by
  intro s hinv
  cases hin : s.inbox with
  | nil => exact .inl ⟨_, step_of_idle hin⟩
  | cons input rest =>
    cases input with
    | reset => exact .inl ⟨_, step_of_reset hin⟩
    | statusRead => exact .inl ⟨_, step_of_statusRead hin⟩
    | transfer x =>
      cases hdecode : decode x with
      | ok i =>
        obtain ⟨t, ht⟩ := exec_completes (s := s.pop) hinv i
        exact .inl ⟨t, (step_of_decode hin hdecode).trans ht⟩
      | error e =>
        obtain ⟨line, rfl⟩ := console_of_decode_eq_error hdecode
        exact .inr ⟨line, rest, e, rfl, hdecode, step_of_decode_error hin hdecode⟩

/-- Settles O2: the step is the reset, which leaves the framer of rule R34 with nothing listed. -/
theorem resetInputEmptiesTheFramer : Obligations.ResetInputEmptiesTheFramer := by
  intro s rest hin
  exact ⟨_, step_of_reset hin, rfl, rfl, rfl, rfl, fun _ => rfl, rfl, congrArg List.tail hin⟩

/-- Settles O3: the step is the status read, which only adds its reply. -/
theorem statusReadReturnsTheRegisters : Obligations.StatusReadReturnsTheRegisters := by
  intro s rest hin
  exact ⟨_, step_of_statusRead hin, rfl, congrArg List.tail hin, rfl⟩

/-- Settles O4: the input taken off is the head of the list. -/
theorem stepRunsTheDecodedInstruction : Obligations.StepRunsTheDecodedInstruction := by
  intro s x rest i hin hdecode
  have hpop : s.pop = { s with inbox := rest } := by simp [State.pop, hin]
  rw [step_of_decode hin hdecode, hpop]

/-- Settles O5: an empty list of inputs is no input to perform. -/
theorem idleStepKeepsTheState : Obligations.IdleStepKeepsTheState :=
  fun _ hin => step_of_idle hin

end Sys2Proof.Proofs

/-! PROOF. Decode and encode agree on every row outside the console: the layout of rule R61 read back field by field, the
selector of rule R71 read back as the variant. -/

namespace Sys2Proof.Machine

/-- Rule R71: the selector of a variant selects it. -/
@[simp] theorem variantOfVsel_vselOf (v : Variant) : variantOfVsel (vselOf v) = v := by
  cases v <;> rfl

theorem byteAt_append_right {b c : Bytes} {k : Nat} (hk : b.length ≤ k) : byteAt (b ++ c) k = byteAt c (k - b.length) := by
  simp only [byteAt, List.getD_eq_getElem?_getD, List.getElem?_append_right hk]

/-- Rule R61: the fields read from a frame's bytes are the frame's, pad included. -/
theorem frameOfBytes_frameBytes (f : Frame) : frameOfBytes (frameBytes f) = f := by
  have hpacket := packetOfBytes_frameBytes f
  simp only [packetOfBytes, Packet.mk.injEq] at hpacket
  obtain ⟨hsize, hid, htype, hbody⟩ := hpacket
  obtain ⟨front, hfront⟩ : ∃ front, frameBytes f = front ++ [f.pad0, f.pad1] := ⟨_, rfl⟩
  have hpad0 : byteAt (frameBytes f) ((frameBytes f).length - 2) = f.pad0 := by
    rw [hfront, byteAt_append_right (by simp)]
    simp [byteAt]
  have hpad1 : byteAt (frameBytes f) ((frameBytes f).length - 1) = f.pad1 := by
    rw [hfront, byteAt_append_right (by simp)]
    simp [byteAt]
  rw [frameOfBytes, hsize, hid, htype, hbody, hpad0, hpad1]

/-- Rule R61: a frame has at least 14 bytes, so its bytes are read as a frame. -/
theorem decodeWire_frameBytes (path : RxPath) (f : Frame) : decodeWire path (frameBytes f) = .frame path f := by
  rw [decodeWire_of_long path (by rw [frameBytes_length]; omega), frameOfBytes_frameBytes]

/-- Rule R64: a type code that no variant has is read as it stands, on either side. -/
theorem decode_type_of_other {side : Side} {type : I32} (htype : isVariantCode type = false) (vsel : BitVec 2) (id : I32)
    (body : Bytes) : decode (.type side type vsel id body) = .ok (.typeOther side type id body) := by
  cases side with
  | transmit =>
    simp only [isVariantCode, Bool.or_eq_false_iff, beq_eq_false_iff_ne] at htype
    obtain ⟨⟨hne0, hne2⟩, hne3⟩ := htype
    rw [decode, decodeTypeOut, if_neg hne3, if_neg hne2, if_neg hne0]
  | receive => simp [decode, decodeTypeIn, htype]

end Sys2Proof.Machine

namespace Sys2Proof.Proofs

open Machine

/-- Settles O46: the rows with a code of their own are read by it; the others turn on the selector, on the chunk having a
byte, on the frame's layout, and on the type code being no variant's. -/
theorem decodeOfEncodeIsTheInstruction : Obligations.DecodeOfEncodeIsTheInstruction := by
  intro i hwf hformat
  cases i with
  | construct v id body =>
    exact (decode_op_construct (vselOf v) 0 id 0 body).trans (by rw [variantOfVsel_vselOf])
  | frmPush chunk => exact decode_op_push 0 0 0 0 (by simpa [Instr.wf] using hwf)
  | frame path f => exact congrArg Except.ok (decodeWire_frameBytes path f)
  | typeOther side type id body => exact decode_type_of_other (by simpa [Instr.wf] using hwf) 0 id body
  | serverDataAuth | serverDataAuthResponse | serverDataExecCommand | serverDataResponseValue => exact absurd rfl hformat
  | _ => rfl

end Sys2Proof.Proofs

/-! PROOF. Signed values (rule R8): the two's complement of a number within the range of `I32`, both ways. -/

namespace Sys2Proof.Machine

/-- Rule R8: within the range of `I32` the bits do not wrap. -/
theorem bits32_toNat {n : Int} (hmin : -2147483648 ≤ n) (hmax : n ≤ 2147483647) :
    ((bits32 n).toNat : Int) = if 0 ≤ n then n else n + 4294967296 := by
  have hword : (bits32 n).toNat = (if 0 ≤ n then n else n + 4294967296).toNat % 4294967296 := BitVec.toNat_ofNat _ 32
  split at hword
  · next hpos => rw [if_pos hpos]; omega
  · next hneg => rw [if_neg hneg]; omega

theorem sint32_bits32 {n : Int} (hmin : -2147483648 ≤ n) (hmax : n ≤ 2147483647) : sint32 (bits32 n) = n := by
  have hbits := bits32_toNat hmin hmax
  unfold sint32
  split at hbits <;> split <;> omega

/-- Rule R8: a word read as signed is in the range of `I32`. -/
theorem sint32_bounds (u : I32) : -2147483648 ≤ sint32 u ∧ sint32 u ≤ 2147483647 := by
  unfold sint32
  split <;> omega

theorem bits32_sint32 (u : I32) : bits32 (sint32 u) = u := by
  obtain ⟨hmin, hmax⟩ := sint32_bounds u
  have hbits := bits32_toNat hmin hmax
  apply BitVec.eq_of_toNat_eq
  have hvalue : sint32 u = if u.toNat < 2147483648 then (u.toNat : Int) else (u.toNat : Int) - 4294967296 := rfl
  split at hvalue <;> split at hbits <;> omega

end Sys2Proof.Machine

namespace Sys2Proof.Proofs

open Machine

/-- Settles O8: neither direction wraps on its range. -/
theorem signedConversions : Obligations.SignedConversions :=
  ⟨fun _ hmin hmax => ⟨bits32_toNat hmin hmax, sint32_bits32 hmin hmax⟩, fun u => ⟨rfl, bits32_sint32 u⟩,
    fun _ _ _ _ => rfl, fun _ => rfl⟩

end Sys2Proof.Proofs

/-! PROOF. The text of a console request (rules R80 to R83): its tokens, its decimal id and its type name read back. -/

namespace Sys2Proof.Machine

/-- Rule R83: a token, as it stands between blanks. -/
def IsToken (w : Bytes) : Prop := w ≠ [] ∧ ∀ b ∈ w, isBlank b = false

/-- Bytes with no blank among them go to the token being read. -/
theorem tokensFrom_append {w : Bytes} (hw : ∀ b ∈ w, isBlank b = false) (rest cur : Bytes) :
    tokensFrom (w ++ rest) cur = tokensFrom rest (cur ++ w) := by
  induction w generalizing cur with
  | nil => rw [List.nil_append, List.append_nil]
  | cons b w ih =>
    obtain ⟨hb, hrest⟩ := List.forall_mem_cons.mp hw
    rw [List.cons_append, tokensFrom, if_neg (by simp [hb]), ih hrest, List.append_assoc, List.singleton_append]

/-- Rule R80: a token and one space are the first token of the line. -/
theorem tokens_token_space {w : Bytes} (hw : IsToken w) (rest : Bytes) :
    tokens (w ++ [0x20] ++ rest) = w :: tokens rest := by
  obtain ⟨hne, hnoblank⟩ := hw
  have hspace : isBlank 0x20 = true := rfl
  rw [tokens, List.append_assoc, tokensFrom_append hnoblank, List.nil_append, List.singleton_append, tokensFrom,
    if_pos hspace, if_neg (by simpa using hne)]
  rfl

/-- The byte of a decimal digit, as a number. -/
theorem ofNat_digit_toNat {d : Nat} (hd : d < 10) : (BitVec.ofNat 8 (0x30 + d)).toNat = 0x30 + d :=
  (BitVec.toNat_ofNat _ 8).trans (Nat.mod_eq_of_lt (by omega))

theorem digit?_ofNat {d : Nat} (hd : d < 10) : digit? (BitVec.ofNat 8 (0x30 + d)) = some d := by
  have hrange : 0x30 ≤ 0x30 + d ∧ 0x30 + d ≤ 0x39 := by omega
  simp only [digit?, ofNat_digit_toNat hd]
  simp [hrange]

/-- Every byte of a decimal number is one of the digits. -/
theorem decimalDigits_range {fuel n : Nat} {b : Byte} (hb : b ∈ decimalDigits fuel n) :
    0x30 ≤ b.toNat ∧ b.toNat ≤ 0x39 := by
  induction fuel generalizing n with
  | zero => cases hb
  | succ fuel ih =>
    rw [decimalDigits] at hb
    split at hb
    · next hlt =>
      rw [List.mem_singleton.mp hb, ofNat_digit_toNat hlt]
      omega
    · rcases List.mem_append.mp hb with hhigh | hlow
      · exact ih hhigh
      · rw [List.mem_singleton.mp hlow, ofNat_digit_toNat (Nat.mod_lt n (by omega))]
        omega

theorem decimalDigits_ne_nil (fuel n : Nat) : decimalDigits (fuel + 1) n ≠ [] := by
  rw [decimalDigits]
  split <;> simp

/-- Digits read in two parts, the second onto the value of the first. -/
theorem digits?_append (xs ys : Bytes) (acc : Nat) :
    digits? (xs ++ ys) acc = (digits? xs acc).bind (digits? ys) := by
  induction xs generalizing acc with
  | nil => rfl
  | cons b xs ih =>
    rw [List.cons_append, digits?, digits?]
    cases digit? b with
    | none => rfl
    | some d => exact ih _

theorem digits?_digit {d : Nat} (hd : d < 10) (acc : Nat) :
    digits? [BitVec.ofNat 8 (0x30 + d)] acc = some (10 * acc + d) := by
  simp [digits?, digit?_ofNat hd]

/-- A number below 10 to the power `fuel` is read back from its digits. -/
theorem digits?_decimalDigits {fuel n : Nat} (hn : n < 10 ^ fuel) : digits? (decimalDigits fuel n) 0 = some n := by
  induction fuel generalizing n with
  | zero =>
    obtain rfl : n = 0 := by omega
    rfl
  | succ fuel ih =>
    rw [decimalDigits]
    split
    · next hlt => rw [digits?_digit hlt, Nat.mul_zero, Nat.zero_add]
    · have hhigh : n / 10 < 10 ^ fuel := by rw [pow_succ] at hn; omega
      rw [digits?_append, ih hhigh, Option.bind_some, digits?_digit (Nat.mod_lt n (by omega)), Nat.div_add_mod]

theorem decimal?_decimalDigits {fuel n : Nat} (hn : n < 10 ^ (fuel + 1)) :
    decimal? (decimalDigits (fuel + 1) n) = some n := by
  rw [decimal?, if_neg (by simpa using decimalDigits_ne_nil fuel n), digits?_decimalDigits hn]

/-- A minus and a decimal number of the range. -/
theorem id?_minus {ds : Bytes} {n : Nat} (hds : decimal? ds = some n) (hn : n ≤ 2147483648) :
    id? (0x2D :: ds) = some (bits32 (-(n : Int))) := by
  simp [id?, hds, hn]

/-- A decimal number of the range with no minus. -/
theorem id?_digits {ds : Bytes} {n : Nat} (hds : decimal? ds = some n) (hminus : 0x2D ∉ ds) (hn : n < 2147483648) :
    id? ds = some (bits32 n) := by
  cases ds with
  | nil => cases hds
  | cons b bs =>
    have hb : b ≠ 0x2D := fun heq => hminus (by simp [heq])
    rw [id?, if_neg hb, hds]
    simp [hn]

/-- Rule R82: the id token of an id is read back as the id, the least one included. -/
theorem id?_idText (id : I32) : id? (idText id) = some id := by
  obtain ⟨hmin, hmax⟩ := sint32_bounds id
  have hdecimal : decimal? (decimalDigits 10 (sint32 id).natAbs) = some (sint32 id).natAbs :=
    decimal?_decimalDigits (by omega)
  rw [idText]
  split
  · next hneg =>
    have hvalue : -((sint32 id).natAbs : Int) = sint32 id := by omega
    rw [id?_minus hdecimal (by omega), hvalue, bits32_sint32]
  · next hpos =>
    have hminus : (0x2D : Byte) ∉ decimalDigits 10 (sint32 id).natAbs := fun hmem =>
      absurd (decimalDigits_range hmem).1 (by decide)
    have hvalue : ((sint32 id).natAbs : Int) = sint32 id := by omega
    rw [id?_digits hdecimal hminus (by omega), hvalue, bits32_sint32]

/-- Every blank is below the digits, the letters and the underscore. -/
theorem isBlank_eq_false_of_le {b : Byte} (hb : 0x30 ≤ b.toNat) : isBlank b = false := by
  have hspace : b ≠ 0x20#8 := fun heq => absurd (heq ▸ hb) (by decide)
  have hcontrol : ¬b.toNat ≤ 0x0D := by omega
  simp [isBlank, hspace, hcontrol]

/-- Rule R82: the text of an id is one token. -/
theorem isToken_idText (id : I32) : IsToken (idText id) := by
  have hdigits : ∀ b ∈ decimalDigits 10 (sint32 id).natAbs, isBlank b = false := fun _ hb =>
    isBlank_eq_false_of_le (decimalDigits_range hb).1
  rw [idText]
  split
  · exact ⟨List.cons_ne_nil _ _, List.forall_mem_cons.mpr ⟨rfl, hdigits⟩⟩
  · exact ⟨decimalDigits_ne_nil 9 _, hdigits⟩

/-- Rule R81: each type name is one token. -/
theorem isToken_consoleName (v : Variant) : IsToken (consoleName v) := by
  have hnoblank : (consoleName v).any isBlank = false := by cases v <;> rfl
  exact ⟨by cases v <;> exact List.cons_ne_nil _ _, by simpa using hnoblank⟩

/-- Rule R81: the four type names are told apart. -/
theorem variantOfName_consoleName (v : Variant) : variantOfName (consoleName v) = some v := by
  cases v <;> rfl

/-- Rule R80: the tokens of a request are its id, its type name and those of its body. -/
theorem tokens_consoleLine (v : Variant) (id : I32) (body : Bytes) :
    tokens (consoleLine v id body) = idText id :: consoleName v :: tokens body :=
  calc tokens (consoleLine v id body)
    _ = tokens (idText id ++ [0x20] ++ (consoleName v ++ [0x20] ++ body)) := rfl
    _ = idText id :: consoleName v :: tokens body := by
      rw [tokens_token_space (isToken_idText id), tokens_token_space (isToken_consoleName v)]

/-- Rules R80 to R83: the text of a request with a body in its one text is read back as the request. -/
theorem decodeConsole_consoleLine {body : Bytes} (hbody : consoleBodyWf body = true) (v : Variant) (id : I32) :
    decodeConsole (consoleLine v id body) = .ok (consoleInstr v id body) := by
  simp only [consoleBodyWf, Bool.and_eq_true, Bool.not_eq_true', List.isEmpty_eq_false_iff, beq_iff_eq] at hbody
  obtain ⟨hne, hjoin⟩ := hbody
  have htokens : tokens body ≠ [] := fun hnil => hne (by rw [← hjoin, hnil]; rfl)
  simp [decodeConsole, tokens_consoleLine, id?_idText, variantOfName_consoleName, htokens, hjoin]

end Sys2Proof.Machine

namespace Sys2Proof.Proofs

open Machine

/-- Settles O47: each console row is the request of one variant, whose line is read back. -/
theorem consoleTextIsReadBack : Obligations.ConsoleTextIsReadBack := by
  intro i hwf hformat
  cases i with
  | serverDataAuth id body => exact decodeConsole_consoleLine hwf .authRequest id
  | serverDataAuthResponse id body => exact decodeConsole_consoleLine hwf .authResponse id
  | serverDataExecCommand id body => exact decodeConsole_consoleLine hwf .execCommand id
  | serverDataResponseValue id body => exact decodeConsole_consoleLine hwf .responseValue id
  | _ => cases hformat

end Sys2Proof.Proofs

/-! PROOF. One reply per instruction (rules R11, R31): with a result code for an outcome, with none for a read. -/

namespace Sys2Proof.Machine

open Safety

theorem packetReply_code_ne_none (r : Except Raised Packet) : (packetReply r).code ≠ none := by
  cases r <;> simp [packetReply, Reply.code]

theorem frameReply_code_ne_none (r : Except RefusalName Bytes) : (frameReply r).code ≠ none := by
  cases r <;> simp [frameReply, Reply.code]

theorem requestReply_code_ne_none (v : Variant) (id : I32) (body : Bytes) : (requestReply v id body).code ≠ none := by
  unfold requestReply
  split
  · simp [Reply.code]
  · exact frameReply_code_ne_none _

/-- Rule R11: what a pure instruction returns is an outcome. -/
theorem exec_of_isPure_code {i : Instr} (hi : isPure i = true) :
    ∃ r : Reply, r.code ≠ none ∧ ∀ s : State, exec i s = .next (s.reply r) := by
  cases i with
  | construct | decode | authRequest | authResponse | execCommand | responseValue =>
    exact ⟨_, packetReply_code_ne_none _, fun _ => rfl⟩
  | encode p => exact ⟨_, frameReply_code_ne_none _, fun _ => rfl⟩
  | reservedOp4 | reservedOp5 | reservedOp6 | reservedOp7 => exact ⟨.refused .badOp, by simp [Reply.code], fun _ => rfl⟩
  | frame path f =>
    cases path with
    | direct => exact ⟨_, packetReply_code_ne_none _, fun _ => rfl⟩
    | framed => cases hi
  | typeOther side type id body =>
    cases side with
    | transmit => exact ⟨_, frameReply_code_ne_none _, fun _ => rfl⟩
    | receive => exact ⟨_, packetReply_code_ne_none _, fun _ => rfl⟩
  | serverDataAuth | serverDataAuthResponse | serverDataExecCommand | serverDataResponseValue =>
    exact ⟨_, requestReply_code_ne_none _ _ _, fun _ => rfl⟩
  | _ => cases hi

theorem pushReply_code_ne_none (fr : Framer) (es : List Event) : (pushReply fr es).code ≠ none := by
  unfold pushReply
  split <;> simp [Reply.code]

theorem framerEos_code_ne_none (fr : Framer) : (framerEos fr).2.code ≠ none := by
  unfold framerEos
  split <;> simp [Reply.code]

/-- Rule R11: what operation 3 returns is an outcome. -/
theorem framerPush_code_ne_none {fr fr' : Framer} {chunk : Bytes} {rep : Reply}
    (h : framerPush fr chunk = .ok (fr', rep)) : rep.code ≠ none := by
  rcases framerPush_cases fr chunk with
    ⟨-, hr⟩ | ⟨-, -, hr⟩ | ⟨-, -, hr⟩ | ⟨-, -, ⟨e, -, hr⟩ | ⟨fr₁, es, -, hr⟩⟩ <;> rw [hr] at h
  · obtain rfl : (framerEos fr).2 = rep := congrArg Prod.snd (Except.ok.inj h)
    exact framerEos_code_ne_none fr
  · cases h; simp [Reply.code]
  · cases h; simp [Reply.code]
  · cases h
  · cases h; exact pushReply_code_ne_none _ _

/-- The rows of the RESULT and STATE spaces are neither pure nor operations of FRM. -/
theorem not_isPure_and_not_isFrm_of_isRead {i : Instr} (hread : i.format = .result ∨ i.format = .state) :
    isPure i = false ∧ isFrm i = false := by
  refine ⟨?_, by rcases hread with h | h <;> simp [isFrm, h]⟩
  cases i with
  | resultOk | resultBodyTooLarge | resultInvalidLength | resultShortFrame | resultBadOp | resultNotWF | resultClosed
  | resultFaulted | frmStHdr | frmStBody | frmStClosed | frmStFault => rfl
  | _ => simp [Instr.format] at hread

end Sys2Proof.Machine

namespace Sys2Proof.Proofs

open Machine Safety

/-- Settles O6: what a pure instruction and an operation of FRM return is an outcome, and what a read returns is none. -/
theorem everyInstructionReturnsOneReply : Obligations.EveryInstructionReturnsOneReply := by
  intro i s t h
  rcases isPure_or_isFrm_or_isRead i with hpure | hfrm | hread
  · obtain ⟨r, hcode, hr⟩ := exec_of_isPure_code hpure
    cases (hr s).symm.trans h
    refine ⟨rfl, r, rfl, iff_of_false hcode fun hread => ?_⟩
    simp [(not_isPure_and_not_isFrm_of_isRead hread).1] at hpure
  · obtain ⟨chunk, hpush⟩ := exec_of_isFrm_push hfrm
    obtain ⟨fr, rep, hop, rfl⟩ := State.finishFrm_next ((hpush s).symm.trans h)
    refine ⟨rfl, rep, rfl, iff_of_false (framerPush_code_ne_none hop) fun hread => ?_⟩
    simp [(not_isPure_and_not_isFrm_of_isRead hread).2] at hfrm
  · rcases exec_of_isRead hread with ⟨row, hr⟩ | ⟨row, hr⟩ <;> cases (hr s).symm.trans h <;>
      exact ⟨rfl, _, rfl, iff_of_true rfl hread⟩

end Sys2Proof.Proofs

/-! PROOF. The FRAME row on both receive paths (rules R68, R69; assumption 6). -/

namespace Sys2Proof.Machine

/-- Rule R68: a frame on the framed path is a push of its bytes. -/
theorem exec_frame_framed (f : Frame) (s : State) : exec (.frame .framed f) s = exec (.frmPush (frameBytes f)) s := rfl

/-- Rule R68: a frame on the direct path is DECODE of its bytes. -/
theorem exec_frame_direct (f : Frame) (s : State) : exec (.frame .direct f) s = exec (.decode (frameBytes f)) s := rfl

/-- Rules R61 and R110: DECODE of a frame's bytes gives its fields, whatever its size field and its pad hold. -/
theorem exec_decode_frameBytes {f : Frame} (hbody : f.body.length ≤ 4092) (s : State) :
    exec (.decode (frameBytes f)) s =
      .next (s.reply (.okPacket { size := f.size, id := f.id, type := f.type, body := f.body })) := by
  have hlen := frameBytes_length f
  rw [exec_decode (by omega) (by omega), packetOfBytes_frameBytes]

/-- Rule R112: a frame with a longer body is beyond DECODE's bound. -/
theorem exec_decode_frameBytes_of_long {f : Frame} (hbody : 4093 ≤ f.body.length) (s : State) :
    exec (.decode (frameBytes f)) s =
      .next (s.reply (.fault { fault := .invalidLength, len := 14 + f.body.length })) := by
  have hlen := frameBytes_length f
  rw [exec_decode_of_lengthFault ((lengthFault_invalidLength_iff _).mpr (.inr (by omega))), hlen]

/-- A byte step moves FRM_CNT up by one at most. -/
theorem frmByte_cnt_le {fr fr' : Framer} {b : Byte} {es : List Event} (h : frmByte fr b = .ok (fr', es)) :
    fr'.cnt.toNat ≤ fr.cnt.toNat + 1 := by
  rcases (frmByte_buf_cnt h).2 with hcnt | hcnt <;> rw [hcnt] <;> bv_omega

theorem pushBytes_cnt_le {fr fr' : Framer} {bs : Bytes} {es : List Event} (h : pushBytes fr bs = .ok (fr', es)) :
    fr'.cnt.toNat ≤ fr.cnt.toNat + bs.length := by
  induction bs generalizing fr es with
  | nil => cases h; exact Nat.le_add_right _ _
  | cons b bs ih =>
    by_cases hfault : fr.st = .fault
    · cases (pushBytes_of_fault hfault _).symm.trans h
      exact Nat.le_add_right _ _
    · obtain ⟨fr₁, es₁, es₂, hbyte, hrest, -⟩ := pushBytes_cons_ok hfault h
      have hstep := frmByte_cnt_le hbyte
      have hloop := ih hrest
      rw [List.length_cons]
      omega

/-- Rule R121: a loop from a frame boundary stores no byte at or beyond the number of its bytes. -/
theorem pushBytes_byteAt_of_length_le {fr fr' : Framer} {bs : Bytes} {es : List Event} (hcnt : fr.cnt = 0)
    (h : pushBytes fr bs = .ok (fr', es)) {a : Nat} (ha : bs.length ≤ a) : fr'.byteAt a = fr.byteAt a := by
  refine pushBytes_byteAt h fun k fr₁ es₁ hk htaken _ => ?_
  have hzero : fr.cnt.toNat = 0 := congrArg BitVec.toNat hcnt
  have hle := pushBytes_cnt_le htaken
  rw [List.length_take] at hle
  omega

/-- Rule R124: only a rejected size field changes FRM_CAUSE. -/
theorem frmByte_cause {fr fr' : Framer} {b : Byte} {es : List Event} (h : frmByte fr b = .ok (fr', es)) :
    fr'.st = .fault ∨ fr'.cause = fr.cause := by
  obtain ⟨m, -, hafter⟩ := frmByte_spec h
  rcases afterByte_next hafter with ⟨-, -, f, -, rfl⟩ | ⟨-, -, -, rfl⟩ | ⟨-, -, rfl⟩ | ⟨-, -, rfl⟩
  · exact .inl rfl
  · exact .inr rfl
  · exact .inr rfl
  · exact .inr rfl

/-- Rule R124: a loop that does not end in FAULT keeps FRM_CAUSE. -/
theorem pushBytes_cause {fr fr' : Framer} {bs : Bytes} {es : List Event} (h : pushBytes fr bs = .ok (fr', es))
    (hnfault : fr'.st ≠ .fault) : fr'.cause = fr.cause := by
  have hkept : fr'.st = .fault ∨ fr'.cause = fr.cause :=
    pushBytes_induction (P := fun fr₁ => fr₁.st = .fault ∨ fr₁.cause = fr.cause)
      (fun _ _ _ _ hP hne hbyte => (frmByte_cause hbyte).imp_right (·.trans (hP.resolve_left hne))) (.inr rfl) h
  exact hkept.resolve_left hnfault

/-- Rule R126: a byte step that leaves nothing collected has completed a frame, and FRM_LEN is cleared with FRM_CNT. -/
theorem frmByte_len_eq_zero {fr fr' : Framer} {b : Byte} {es : List Event} (h : frmByte fr b = .ok (fr', es))
    (hcnt : fr'.cnt = 0) : fr'.len = 0 := by
  obtain ⟨m, hm, hafter⟩ := frmByte_spec h
  have hcap : fr.cnt.toNat < 4106 := (Memory.write_spec hm).1
  have hcounted : fr.cnt + 1 ≠ 0 := by bv_omega
  rcases afterByte_next hafter with ⟨-, -, f, -, rfl⟩ | ⟨-, -, -, rfl⟩ | ⟨-, -, rfl⟩ | ⟨-, -, rfl⟩
  · exact absurd hcnt hcounted
  · exact absurd hcnt hcounted
  · rfl
  · exact absurd hcnt hcounted

/-- The same of a loop with a byte to take. -/
theorem pushBytes_len_eq_zero {fr fr' : Framer} {bs : Bytes} {es : List Event} (hne : bs ≠ [])
    (hnfault : fr.st ≠ .fault) (h : pushBytes fr bs = .ok (fr', es)) (hcnt : fr'.cnt = 0) : fr'.len = 0 := by
  cases bs with
  | nil => exact absurd rfl hne
  | cons b bs =>
    obtain ⟨fr₁, es₁, es₂, hbyte, hrest, -⟩ := pushBytes_cons_ok hnfault h
    exact pushBytes_induction (P := fun fr => fr.cnt = 0 → fr.len = 0)
      (fun _ _ _ _ _ _ hbyte => frmByte_len_eq_zero hbyte) (frmByte_len_eq_zero hbyte) hrest hcnt

/-- Rules R126 and R130: the loop on a whole frame whose size field is right, from a frame boundary to the next. -/
theorem pushBytes_frameBytes {fr : Framer} {f : Frame} (hst : fr.st = .hdr) (hcnt : fr.cnt = 0)
    (hbody : f.body.length ≤ 4092) (hsize : f.size.toNat = f.body.length + 10) :
    ∃ fr', fr'.st = .hdr ∧ fr'.cnt = 0 ∧ pushBytes fr (frameBytes f) =
      .ok (fr', [.packet { size := f.size, id := f.id, type := f.type, body := f.body }]) := by
  have hlen := frameBytes_length f
  have hfield : (u32le (slice (frameBytes f) 0 4)).toNat = (frameBytes f).length - 4 := by
    rw [u32le_slice_frameBytes]; omega
  have hadmitted : lengthFault (frameBytes f).length = none := (lengthFault_none_iff _).mpr (by omega)
  rcases pushBytes_frame hst hcnt (by omega) hfield with ⟨fr', flt, hf, -⟩ | ⟨fr', -, hst', hcnt', hloop⟩
  · cases hadmitted.symm.trans hf
  · exact ⟨fr', hst', hcnt', by rw [hloop, packetOfBytes_frameBytes]⟩

end Sys2Proof.Machine

namespace Sys2Proof.Proofs

open Machine

/-- Settles O37: the direct path is DECODE of the frame's bytes, and the framed path their push. -/
theorem frameRowOnBothPaths : Obligations.FrameRowOnBothPaths :=
  ⟨fun f s => ⟨fun hbody => (exec_frame_direct f s).trans (exec_decode_frameBytes hbody s),
    fun hbody => (exec_frame_direct f s).trans (exec_decode_frameBytes_of_long hbody s)⟩, exec_frame_framed⟩

/-- Settles O38: the loop goes from one frame boundary to the next, storing the frame's bytes from index 0. -/
theorem frameRowFramedEmitsThePacket : Obligations.FrameRowFramedEmitsThePacket := by
  intro f s hst hcnt hbody hsize
  have hlen := frameBytes_length f
  have hne : frameBytes f ≠ [] := List.ne_nil_of_length_pos (by omega)
  obtain ⟨fr, hst', hcnt', hloop⟩ := pushBytes_frameBytes hst hcnt hbody hsize
  have hnfault : fr.st ≠ .fault := ne_fault_of_open (.inl hst')
  have hpush := (exec_frmPush_eq_next_iff hne (.inl hst)).mpr ⟨fr, _, hloop, rfl⟩
  rw [pushReply_of_ne_fault hnfault] at hpush
  refine ⟨_, hpush, hst', hcnt', ?len, pushBytes_cause hloop hnfault, rfl, fun a ha => ?byte, rfl⟩
  case len => exact pushBytes_len_eq_zero hne (ne_fault_of_open (.inl hst)) hloop hcnt'
  case byte => exact pushBytes_byteAt_of_length_le hcnt hloop (by omega)

end Sys2Proof.Proofs

/-! PROOF. The reserved rows (rule R72), and the TYPE and CONSOLE rows as CONSTRUCT, ENCODE and DECODE (rules R64 to R69, R80
and R81; assumptions 5 and 8). -/

namespace Sys2Proof.Machine

/-- Rule R64: on the transmit side another type is ENCODE's operand, with the size that CONSTRUCT would store. -/
theorem exec_typeOther_transmit (type id : I32) (body : Bytes) (s : State) :
    exec (.typeOther .transmit type id body) s = exec (.encode (packetOf type id body)) s := rfl

/-- Rule R69: on the receive side another type comes in a frame that DECODE is handed. -/
theorem exec_typeOther_receive (type id : I32) (body : Bytes) (s : State) :
    exec (.typeOther .receive type id body) s = exec (.decode (frameOfPacket (packetOf type id body))) s := rfl

/-- Rule R80: a request whose body is within the bound is ENCODE of CONSTRUCT. -/
theorem requestReply_of_le {body : Bytes} (hbody : body.length ≤ 4096) (v : Variant) (id : I32) :
    requestReply v id body = .okFrame (frameOfPacket (packetOf (typeField v) id body)) := by
  have hencode := encodePacket_ok (p := packetOf (typeField v) id body) hbody
  simp only [requestReply, constructPacket_ok hbody, hencode, frameReply]

/-- Rule R80: a request with a longer body ends with CONSTRUCT's fault. -/
theorem requestReply_of_long {body : Bytes} (hbody : 4097 ≤ body.length) (v : Variant) (id : I32) :
    requestReply v id body = .fault { fault := .bodyTooLarge, len := body.length } := by
  simp only [requestReply, constructPacket_error hbody]

/-- Rule R81: a console row is the request of the variant its name selects. -/
theorem exec_consoleInstr (v : Variant) (id : I32) (body : Bytes) (s : State) :
    exec (consoleInstr v id body) s = .next (s.reply (requestReply v id body)) := by
  cases v <;> rfl

end Sys2Proof.Machine

namespace Sys2Proof.Proofs

open Machine

/-- Settles O19: a reserved row does nothing but refuse. -/
theorem reservedRowsComplete : Obligations.ReservedRowsComplete :=
  fun _ => ⟨rfl, rfl, rfl, rfl⟩

/-- Settles O39: each row is CONSTRUCT of its variant, whose wire code is the type field. -/
theorem variantRowsConstruct : Obligations.VariantRowsConstruct := by
  intro id body s
  refine ⟨fun hbody => ?_, fun hlong i hi => ?_⟩
  · exact ⟨exec_construct hbody s, exec_construct hbody s, exec_construct hbody s, exec_construct hbody s⟩
  · simp only [List.mem_cons, List.not_mem_nil, or_false] at hi
    rcases hi with rfl | rfl | rfl | rfl <;> exact exec_construct_of_long hlong s

/-- Settles O40: ENCODE does not read the stored size, and DECODE of the packet's frame gives the packet back. -/
theorem otherTypesAreCarriedRaw : Obligations.OtherTypesAreCarriedRaw := by
  intro type id body s
  refine ⟨fun hbody => ?_, fun hlong => ?_, fun hbody => ?_, fun hlong => ?_⟩
  · refine ⟨frameOfPacket (packetOf type id body), ?_, fun size => ?_, frameOfPacket_eq_bytes hbody⟩
    · rw [exec_typeOther_transmit, exec_encode hbody]
    · exact exec_encode (p := { size := size, id := id, type := type, body := body }) hbody s
  · rw [exec_typeOther_transmit, exec_encode_of_long hlong]
  · rw [exec_typeOther_receive]
    exact exec_decode_frameBytes hbody s
  · rw [exec_typeOther_receive]
    exact exec_decode_frameBytes_of_long hlong s

/-- Settles O44: a console row is the request of its variant, which is ENCODE of CONSTRUCT. -/
theorem consoleLineIsEncodeOfConstruct : Obligations.ConsoleLineIsEncodeOfConstruct := by
  intro id body s i v hrow
  obtain rfl : i = consoleInstr v id body := by
    simp only [List.mem_cons, List.not_mem_nil, or_false, Prod.mk.injEq] at hrow
    rcases hrow with ⟨rfl, rfl⟩ | ⟨rfl, rfl⟩ | ⟨rfl, rfl⟩ | ⟨rfl, rfl⟩ <;> rfl
  rw [exec_consoleInstr]
  refine ⟨fun hbody => ⟨_, _, exec_construct hbody s, exec_encode hbody s, ?_⟩, fun hlong => ?_⟩
  · rw [requestReply_of_le hbody]
  · rw [requestReply_of_long hlong]

end Sys2Proof.Proofs

/-! PROOF. The rows that are reads (rules R24, R30, R141; assumption 7): numbers tell codes and framer states apart, and the
latest code is the last outcome's. -/

namespace Sys2Proof.Machine

/-- Rule R141: telling the latest code against a row by its number is telling it by its name. -/
theorem readResult_eq (row : ResultCode) (s : State) :
    readResult row s = .next (s.reply (.resultRead ((lastCode s.replies).map ResultCode.bits) s.frm.cause.bits
      (decide ((lastCode s.replies).map ResultCode.bits = some row.bits)) (decide (s.frm.cause.bits = row.bits)))) := by
  have hlast : (lastCode s.replies).map ResultCode.bits = some row.bits ↔ lastCode s.replies = some row :=
    (Option.map_injective ResultCode.bits_injective).eq_iff (b := some row)
  simp only [readResult, hlast, ResultCode.bits_injective.eq_iff]

/-- Rule R24: telling FRM_ST against a row by its number is telling it by its name. -/
theorem readState_eq (row : FrmSt) (s : State) :
    readState row s = .next (s.reply (.stateRead s.frm.st.bits (decide (s.frm.st.bits = row.bits)))) := by
  simp only [readState, FrmSt.bits_injective.eq_iff]

/-- Rule R141: the last reply decides the latest code, unless it is a read's. -/
theorem lastCode_concat (rs : List Reply) (r : Reply) : lastCode (rs ++ [r]) = r.code.or (lastCode rs) := by
  induction rs with
  | nil => cases hcode : r.code <;> simp [lastCode, hcode]
  | cons r' rs ih =>
    rw [List.cons_append, lastCode, lastCode, ih]
    cases r.code <;> rfl

end Sys2Proof.Machine

namespace Sys2Proof.Proofs

open Machine

/-- Settles O41: each row reads the two codes, and the numbering of rule R141 is one to one. -/
theorem resultRowsReadTheCodes : Obligations.ResultRowsReadTheCodes := by
  refine ⟨fun s i n hrow => ?_, rfl, rfl, rfl, rfl, rfl, rfl, rfl, rfl⟩
  simp only [List.mem_cons, List.not_mem_nil, or_false, Prod.mk.injEq] at hrow
  rcases hrow with ⟨rfl, rfl⟩ | ⟨rfl, rfl⟩ | ⟨rfl, rfl⟩ | ⟨rfl, rfl⟩ | ⟨rfl, rfl⟩ | ⟨rfl, rfl⟩ | ⟨rfl, rfl⟩ | ⟨rfl, rfl⟩ <;>
    exact readResult_eq _ s

/-- Settles O42: an outcome's code comes before the codes of all earlier replies, and a read's reply has none. -/
theorem latestCodeIsTheLastOutcomes : Obligations.LatestCodeIsTheLastOutcomes := by
  refine ⟨fun rs r c hcode => ?_, fun rs r hcode => ?_⟩
  · rw [lastCode_concat, hcode, Option.some_or]
  · rw [lastCode_concat, hcode, Option.none_or]

/-- Settles O43: each row reads FRM_ST, and the numbering of rule R24 is one to one. -/
theorem stateRowsReadFrmSt : Obligations.StateRowsReadFrmSt := by
  intro s i n hrow
  refine ⟨?_, congrArg FrmSt.bits, congrArg FrmSt.bits, congrArg FrmSt.bits, congrArg FrmSt.bits⟩
  simp only [List.mem_cons, List.not_mem_nil, or_false, Prod.mk.injEq] at hrow
  rcases hrow with ⟨rfl, rfl⟩ | ⟨rfl, rfl⟩ | ⟨rfl, rfl⟩ | ⟨rfl, rfl⟩ <;> exact readState_eq _ s

/-- Settles O45: an operation code, a frame, a type code, a result code and a framer state are each read in their own space,
and each console line is the text of a request. -/
theorem wordsOfTheTablesDecode : Obligations.WordsOfTheTablesDecode :=
  have hline (v : Variant) : decode (.console (consoleLine v 1 [0x78])) = .ok (consoleInstr v 1 [0x78]) :=
    decodeConsole_consoleLine rfl v 1
  ⟨decode_op_construct 2 0 1 0 [0x61], decode_op_encode 0 { size := 0x10, id := 1, type := 2, body := [0x61] },
    decode_op_decode 0 0 0 0 [0x0A], decode_op_push 0 0 0 0 (List.cons_ne_nil _ _), rfl, rfl,
    congrArg Except.ok (decodeWire_frameBytes .framed
      { size := 10, id := 7, type := 2, body := [], pad0 := 0xAB, pad1 := 0xCD }),
    rfl, rfl, rfl, rfl, decode_type_of_other rfl 0 1 [],
    rfl, rfl, rfl, rfl, rfl, rfl, rfl, rfl,
    rfl, rfl, rfl, rfl,
    hline .authRequest, hline .authResponse, hline .execCommand, hline .responseValue⟩

end Sys2Proof.Proofs
